-- ==== Sys2Proof/Word.lean ====
section
/-! DEFINITION. The word types of the machine (00_scope.md R9, R11, R12). -/

namespace Sys2Proof

/-- A register or memory cell: an unsigned 32-bit value (R12). -/
abbrev Word := BitVec 32

/-- A byte packed inside a cell; no byte is addressable (20_memory.md R51, R53). -/
abbrev Byte := BitVec 8

/-- A cell index, and the operand of a format A instruction: 24 bits (R9, 30_encoding.md R84). -/
abbrev Addr := BitVec 24

end Sys2Proof
end

