-- ==== Sys2Proof/Config.lean ====
section
/-! DEFINITION. What an implementation fixes (the named parameters of 00_scope.md R10) and the free values: what a device
of the host's own does at a poll. -/

namespace Sys2Proof

/-- The 41 mnemonics (30_encoding.md R86): the keys of the parameter `OPCODE_MAP`, and the reserved words of the
assembler's source language (R111). -/
inductive Mnemonic where
  | nop | halt
  | add | sub | mul | div | and | or | not | neg | shl | shr | rol | ror | cmp
  | pop | pushf | popf | inc | dec | swap | dup | ret
  | ld | st
  | ei | di | iret
  | push | call
  | jmp | jz | je | jnz | jg | jge | jl | jle
  | set | unset | check
deriving DecidableEq, Repr

/-- The two instruction formats (R81, R82). -/
inductive Format where
  /-- Addressed: bit 31 is 1, a 24-bit operand. -/
  | a
  /-- Non-addressed: bit 31 is 0, no operand. -/
  | n
deriving DecidableEq, Repr

/-- The parameter `OPCODE_MAP`: the opcode byte of each mnemonic (R10, R86). -/
abbrev OpcodeMap := List (Mnemonic × Byte)

/-- The parameter `SHIFT_FLAGS`: which value SHL, SHR, ROL and ROR take N and Z from (R10). -/
inductive ShiftFlags where
  /-- The value before the shift (the default). -/
  | pre
  /-- The value after the shift. -/
  | post
deriving DecidableEq, Repr

namespace Config

/-! The free values of a device of the host's own (60_exceptions.md R425; log 9). Each is read at the device's number, its
internal state, the fields of its control block but the handler address, which no agent reads (R422), and the words of its
buffer: all that a poll may read. None has a value that a proof can see. -/

/-- The ready flag such a device leaves. FREE VALUE (R425). -/
opaque hostReady (number st : Nat) (flags : Byte) (word1 : Word) (buffer : List Word) : Bool

/-- The word such a device leaves in the `j`-th cell of its buffer. FREE VALUE (R425). -/
opaque hostCell (number st : Nat) (flags : Byte) (word1 : Word) (buffer : List Word) (j : Nat) : Word

/-- The internal state such a device goes to. FREE VALUE (R425). -/
opaque hostNext (number st : Nat) (flags : Byte) (word1 : Word) (buffer : List Word) : Nat

end Config
end Sys2Proof
end

