-- ==== Sys2Proof/Syntax.lean ====
section
/-! DEFINITION. The instructions: one constructor per row of spec/opcode_table.json (30_encoding.md R86). A format A
instruction carries its 24-bit operand (R84); a format N instruction has none (R82). The submode bits of format A and the
low 24 bits of format N have no effect (R89, R90) and are not kept. -/

namespace Sys2Proof

inductive Instr where
  | nop
  | halt
  | add
  | sub
  | mul
  | div
  | and
  | or
  | not
  | neg
  | shl
  | shr
  | rol
  | ror
  | cmp
  | pop
  | pushf
  | popf
  | inc
  | dec
  | swap
  | dup
  | ret
  | ld
  | st
  | ei
  | di
  | iret
  | push (imm : Addr)
  | call (target : Addr)
  | jmp (target : Addr)
  | jz (target : Addr)
  | je (target : Addr)
  | jnz (target : Addr)
  | jg (target : Addr)
  | jge (target : Addr)
  | jl (target : Addr)
  | jle (target : Addr)
  | set (d : Addr)
  | unset (d : Addr)
  | check (d : Addr)
deriving DecidableEq, Repr

end Sys2Proof
end

