-- ==== Sys2Proof/Syntax/Micro.lean ====
section
/-! DEFINITION. The microinstruction, field by field (30_encoding.md R95 to R99). Its 43-bit packing is in Decode.lean. -/

namespace Sys2Proof

/-- One microinstruction (R95). -/
structure MicroInstr where
  /-- CLASS, the operation class (R96). -/
  cls : BitVec 3
  /-- TGT, the registers written (R97). -/
  tgt : BitVec 8
  /-- LHS, the registers OR-ed into the left operand (R97). -/
  lhs : BitVec 8
  /-- RHS, the registers OR-ed into the right operand (R97). -/
  rhs : BitVec 8
  /-- ALU, the ALU code (R98). -/
  alu : BitVec 6
  /-- COMM, the commutator code (R99). -/
  comm : BitVec 10
deriving DecidableEq, Repr

/-- The ALU operations, ALU code bits 1:0 (R98). -/
inductive AluOp where
  | add | and | mul | div
deriving DecidableEq, Repr

/-- The four operand transforms, two bits each (R98, 40_datapath.md R161). -/
inductive Transform where
  /-- The operand itself. -/
  | id
  /-- The unbounded complement, `-x - 1`. -/
  | cpl
  /-- Plus one. -/
  | inc
  /-- Complement, then plus one: `-x`. -/
  | neg
deriving DecidableEq, Repr

/-- The seven registers (10_state.md R20), in mask-bit order (R97). -/
inductive Reg where
  | pc | sp | cr | ar | dr | sr | br
deriving DecidableEq, Repr

end Sys2Proof
end

