-- ==== Sys2Proof/WellFormed.lean ====
section
/-! DEFINITION. Well-formedness of the syntax: instructions, and the microinstructions the data path accepts. -/

namespace Sys2Proof

/-- Every instruction is well-formed: the one bound the spec puts on an instruction, an operand of 24 bits
(30_encoding.md R84), is the operand's type. -/
def Instr.wellFormed (_ : Instr) : Bool := true

/-- The class is one of the three assigned ones (30_encoding.md R96, R100). -/
def MicroInstr.classAssigned (m : MicroInstr) : Bool := m.cls == 0 || m.cls == 1 || m.cls == 2

/-- The shift selector is assigned: 0 to 4 (R99, R100). -/
def MicroInstr.shiftAssigned (m : MicroInstr) : Bool := decide ((m.comm.extractLsb' 4 3).toNat ≤ 4)

/-- Mask bit 7 is clear in all three masks (R97, R100). -/
def MicroInstr.masksAssigned (m : MicroInstr) : Bool :=
  !m.tgt.getLsbD 7 && !m.lhs.getLsbD 7 && !m.rhs.getLsbD 7

/-- No reserved encoding is used (R100). -/
def MicroInstr.wellFormed (m : MicroInstr) : Bool :=
  m.classAssigned && m.shiftAssigned && m.masksAssigned

end Sys2Proof
end

