-- ==== Sys2Proof/Decode.lean ====
section
/-! DEFINITION. The encodings: the opcode table, the decoder and the encoder of instruction words (30_encoding.md R80 to R91,
R127), and the packing of microinstructions (R95 to R99). -/

namespace Sys2Proof

/-! ## Mnemonics, formats and operands -/

/-- The 41 mnemonics, in the order of R86. -/
def Mnemonic.all : List Mnemonic :=
  [.nop, .halt, .add, .sub, .mul, .div, .and, .or, .not, .neg, .shl, .shr, .rol, .ror, .cmp, .pop, .pushf, .popf,
   .inc, .dec, .swap, .dup, .ret, .ld, .st, .ei, .di, .iret,
   .push, .call, .jmp, .jz, .je, .jnz, .jg, .jge, .jl, .jle, .set, .unset, .check]

/-- The format of each mnemonic (R86). -/
def Mnemonic.format : Mnemonic → Format
  | .nop | .halt | .add | .sub | .mul | .div | .and | .or | .not | .neg | .shl | .shr | .rol | .ror | .cmp | .pop
      | .pushf | .popf | .inc | .dec | .swap | .dup | .ret | .ld | .st | .ei | .di | .iret => .n
  | .push | .call | .jmp | .jz | .je | .jnz | .jg | .jge | .jl | .jle | .set | .unset | .check => .a

/-- The instruction a mnemonic and an operand field stand for; format N takes no operand (R82, R84). -/
def Mnemonic.toInstr (m : Mnemonic) (operand : Addr) : Instr :=
  match m with
  | .nop => .nop
  | .halt => .halt
  | .add => .add
  | .sub => .sub
  | .mul => .mul
  | .div => .div
  | .and => .and
  | .or => .or
  | .not => .not
  | .neg => .neg
  | .shl => .shl
  | .shr => .shr
  | .rol => .rol
  | .ror => .ror
  | .cmp => .cmp
  | .pop => .pop
  | .pushf => .pushf
  | .popf => .popf
  | .inc => .inc
  | .dec => .dec
  | .swap => .swap
  | .dup => .dup
  | .ret => .ret
  | .ld => .ld
  | .st => .st
  | .ei => .ei
  | .di => .di
  | .iret => .iret
  | .push => .push operand
  | .call => .call operand
  | .jmp => .jmp operand
  | .jz => .jz operand
  | .je => .je operand
  | .jnz => .jnz operand
  | .jg => .jg operand
  | .jge => .jge operand
  | .jl => .jl operand
  | .jle => .jle operand
  | .set => .set operand
  | .unset => .unset operand
  | .check => .check operand

/-- The mnemonic of an instruction. -/
def Instr.mnemonic : Instr → Mnemonic
  | .nop => .nop
  | .halt => .halt
  | .add => .add
  | .sub => .sub
  | .mul => .mul
  | .div => .div
  | .and => .and
  | .or => .or
  | .not => .not
  | .neg => .neg
  | .shl => .shl
  | .shr => .shr
  | .rol => .rol
  | .ror => .ror
  | .cmp => .cmp
  | .pop => .pop
  | .pushf => .pushf
  | .popf => .popf
  | .inc => .inc
  | .dec => .dec
  | .swap => .swap
  | .dup => .dup
  | .ret => .ret
  | .ld => .ld
  | .st => .st
  | .ei => .ei
  | .di => .di
  | .iret => .iret
  | .push _ => .push
  | .call _ => .call
  | .jmp _ => .jmp
  | .jz _ => .jz
  | .je _ => .je
  | .jnz _ => .jnz
  | .jg _ => .jg
  | .jge _ => .jge
  | .jl _ => .jl
  | .jle _ => .jle
  | .set _ => .set
  | .unset _ => .unset
  | .check _ => .check

/-- The operand field of an instruction; format N has none and is encoded with zeros (R90, R127). -/
def Instr.operand : Instr → Addr
  | .nop => 0
  | .halt => 0
  | .add => 0
  | .sub => 0
  | .mul => 0
  | .div => 0
  | .and => 0
  | .or => 0
  | .not => 0
  | .neg => 0
  | .shl => 0
  | .shr => 0
  | .rol => 0
  | .ror => 0
  | .cmp => 0
  | .pop => 0
  | .pushf => 0
  | .popf => 0
  | .inc => 0
  | .dec => 0
  | .swap => 0
  | .dup => 0
  | .ret => 0
  | .ld => 0
  | .st => 0
  | .ei => 0
  | .di => 0
  | .iret => 0
  | .push x => x
  | .call x => x
  | .jmp x => x
  | .jz x => x
  | .je x => x
  | .jnz x => x
  | .jg x => x
  | .jge x => x
  | .jl x => x
  | .jle x => x
  | .set x => x
  | .unset x => x
  | .check x => x

/-! ## The opcode table -/

/-- The default of `OPCODE_MAP`: the table of R86. -/
def defaultOpcodeMap : OpcodeMap :=
  [
   (.nop, 0x02#8), (.halt, 0x04#8), (.add, 0x06#8), (.sub, 0x08#8), (.mul, 0x0A#8), (.div, 0x0C#8), (.and, 0x0E#8),
   (.or, 0x10#8), (.not, 0x12#8), (.neg, 0x14#8), (.shl, 0x16#8), (.shr, 0x18#8), (.rol, 0x1A#8), (.ror, 0x1C#8),
   (.cmp, 0x1E#8), (.pop, 0x20#8), (.pushf, 0x22#8), (.popf, 0x24#8), (.inc, 0x26#8), (.dec, 0x28#8), (.swap, 0x2A#8),
   (.dup, 0x2C#8), (.ret, 0x2E#8), (.ld, 0x30#8), (.st, 0x32#8), (.ei, 0x34#8), (.di, 0x36#8), (.iret, 0x38#8),
   (.push, 0x80#8), (.call, 0x84#8), (.jmp, 0x88#8), (.jz, 0x8C#8), (.je, 0x90#8), (.jnz, 0x94#8), (.jg, 0x98#8),
   (.jge, 0x9C#8), (.jl, 0xA0#8), (.jle, 0xA4#8), (.set, 0xA8#8), (.unset, 0xAC#8), (.check, 0xB0#8)]

/-- The byte fits its mnemonic's format (R81, R82, R89): a format A byte has bit 7 set and the submode bits clear, a format N
byte has bit 7 and bit 0 clear. -/
def opcodeByteFits (m : Mnemonic) (b : Byte) : Bool :=
  match m.format with
  | .a => b.getLsbD 7 && !b.getLsbD 1 && !b.getLsbD 0
  | .n => !b.getLsbD 7 && !b.getLsbD 0

/-- A legal value of `OPCODE_MAP`: one byte for every mnemonic, each fitting its format, no two the same (R82, R86, R89). -/
def legalOpcodeMap (map : OpcodeMap) : Bool :=
  Mnemonic.all.all (fun m => (map.map (·.1)).contains m) &&
  decide (map.map (·.1)).Nodup && decide (map.map (·.2)).Nodup &&
  map.all (fun e => opcodeByteFits e.1 e.2)

/-- The mnemonic of the given format whose opcode byte is `key`, if the map has one. -/
def lookupOpcode : OpcodeMap → Format → Byte → Option Mnemonic
  | [], _, _ => none
  | (m, b) :: rest, f, key => if m.format = f ∧ b = key then some m else lookupOpcode rest f key

/-- The opcode byte of a mnemonic. A map that lacks it gives 0x00; no legal map does. -/
def opcodeOf : OpcodeMap → Mnemonic → Byte
  | [], _ => 0x00
  | (k, b) :: rest, m => if k = m then b else opcodeOf rest m

/-! ## The instruction word -/

/-- Bits 31:24 (R81, R82). -/
def opcodeByte (w : Word) : Byte := w.extractLsb' 24 8

/-- Bits 23:0 (R84). -/
def operandField (w : Word) : Addr := w.extractLsb' 0 24

/-- Bit 31: format A when set (R83). -/
def isAddressed (w : Word) : Bool := w.getLsbD 31

/-- Why the decoder rejects a word: its opcode byte is not assigned (R88). -/
inductive DecodeReject where
  | unassigned (opcode : Byte)
deriving DecidableEq, Repr

/-- The decode function (R87): format A looks up the byte with the submode bits masked off, format N the whole byte. -/
def decodeWith (map : OpcodeMap) (w : Word) : Except DecodeReject Instr :=
  let found :=
    if isAddressed w then lookupOpcode map .a (opcodeByte w &&& 0xFC#8)
    else lookupOpcode map .n (opcodeByte w)
  match found with
  | some m => .ok (m.toInstr (operandField w))
  | none => .error (.unassigned (opcodeByte w))

/-- The decode function with the default opcode map. -/
def decode (w : Word) : Except DecodeReject Instr := decodeWith defaultOpcodeMap w

/-- The word of an instruction (R127): the opcode byte, submode 0b00, and the operand in the low 24 bits. -/
def encodeWith (map : OpcodeMap) (i : Instr) : Word := opcodeOf map i.mnemonic ++ i.operand

/-- The word of an instruction with the default opcode map. -/
def encode (i : Instr) : Word := encodeWith defaultOpcodeMap i

/-- The host's question: the instruction the decoder reads from a word of `nbits` bits. -/
def decodeTableWord (nbits w : Nat) : Option Instr :=
  match decode (BitVec.ofNat 32 (w % 2 ^ nbits)) with
  | .ok i => some i
  | .error _ => none

/-! ## The microinstruction word -/

/-- The 43-bit word: CLASS 2:0, TGT 10:3, LHS 18:11, RHS 26:19, ALU 32:27, COMM 42:33 (R95). -/
def MicroInstr.pack (m : MicroInstr) : BitVec 43 := m.comm ++ m.alu ++ m.rhs ++ m.lhs ++ m.tgt ++ m.cls

/-- The fields of a 43-bit word (R95). -/
def MicroInstr.unpack (w : BitVec 43) : MicroInstr :=
  { cls := w.extractLsb' 0 3, tgt := w.extractLsb' 3 8, lhs := w.extractLsb' 11 8,
    rhs := w.extractLsb' 19 8, alu := w.extractLsb' 27 6, comm := w.extractLsb' 33 10 }

/-- The register a mask bit names: bit 0 PC up to bit 6 BR; bit 7 is reserved (R97). -/
def Reg.maskBit : Reg → Nat
  | .pc => 0 | .sp => 1 | .cr => 2 | .ar => 3 | .dr => 4 | .sr => 5 | .br => 6

/-- The mask with one register's bit set (R97). -/
def Reg.mask (r : Reg) : BitVec 8 := 1#8 <<< r.maskBit

/-- ALU code bits 1:0 (R98). -/
def AluOp.code : AluOp → BitVec 2
  | .add => 0 | .and => 1 | .mul => 2 | .div => 3

/-- The operation of ALU code bits 1:0 (R98). -/
def AluOp.ofCode (b : BitVec 2) : AluOp :=
  if b = 0 then .add else if b = 1 then .and else if b = 2 then .mul else .div

/-- The two bits of a transform: the complement bit below the increment bit (R98). -/
def Transform.code : Transform → BitVec 2
  | .id => 0 | .cpl => 1 | .inc => 2 | .neg => 3

/-- The transform of a complement bit and an increment bit (R98, 40_datapath.md R161). -/
def Transform.ofBits (c i : Bool) : Transform :=
  match c, i with
  | false, false => .id
  | true, false => .cpl
  | false, true => .inc
  | true, true => .neg

/-- The ALU code: OP 1:0, LC 2, LI 3, RC 4, RI 5 (R98). -/
def aluCode (op : AluOp) (l r : Transform) : BitVec 6 := r.code ++ l.code ++ op.code

end Sys2Proof
end

