-- ==== Sys2Proof/Machine/State.lean ====
section
/-! DEFINITION. The machine's state (10_state.md R38), the reasons a step can stop, and the state after reset
(10_state.md R36, 70_reset_and_hazards.md R455). -/

namespace Sys2Proof.Machine

/-- The kinds of execution fault (60_exceptions.md R400). -/
inductive FaultKind where
  /-- The fetched word decodes to no instruction (R405). -/
  | unknownOpcode
  /-- The ALU's DIV operation with a transformed right operand of 0 (R402). -/
  | divisionByZero
  /-- A READ or WRITE with AR outside [0, 2^24) (R403). No architected microprogram raises it. -/
  | addressOutOfRange
  /-- A reserved CLASS or SHIFT in a microinstruction (R404). No architected microprogram raises it. -/
  | reservedMicroop
deriving DecidableEq, Repr

/-- Why a step stops. Both end states are final (10_state.md R39). -/
inductive Fault where
  /-- Raised by `step` when SR.RUN is 0 at the top of the cycle: the run has ended halted (40_datapath.md R183). Safe: the
  hardware does nothing more. -/
  | runHalted
  /-- Raised by `step` when the fault status is set: an earlier step took the execution fault of this kind and the run has
  ended (60_exceptions.md R401, R409). Safe: the hardware does nothing more. -/
  | runFaulted (kind : FaultKind)
deriving DecidableEq, Repr

/-- Why the model gives no meaning. -/
inductive Refusal where
  /-- Raised by `exec` for an instruction that has no meaning yet. Safe: nothing follows from it. -/
  | notModelled (mnemonic : String)
deriving DecidableEq, Repr

/-- The phases of the control unit (40_datapath.md R182). -/
inductive Phase where
  | fetch | decode | execute | devicePoll
deriving DecidableEq, Repr

/-- The 2^24 cells of 32 bits (20_memory.md R50, R51), as the value of every unlisted cell and the list of the cells that
differ from it, in the canonical form of `Memory.wf` (log 1). -/
structure Memory where
  /-- What an unlisted cell reads as: the parameter MEM_INIT (R70). -/
  init : Word
  /-- Cell index and value, indices strictly rising. -/
  cells : List (Nat × Word)
deriving DecidableEq, Repr

/-- What is attached as a device, with the device's own state (10_state.md R34, 60_exceptions.md R421, R426). -/
inductive DeviceKind where
  /-- The reference input device, with the bytes it has not delivered yet (R426). -/
  | input (pending : List Byte)
  /-- The reference output device, with the bytes it has received (R426). -/
  | output (sink : List Byte)
  /-- Any other device the host attaches: its polls are free within R425 (log 9). `st` is the model's own field, where the
  free values are read. -/
  | host (st : Nat)
deriving DecidableEq, Repr

/-- An attached device: its number, 0 to 15, and what it is (60_exceptions.md R420). -/
structure Device where
  number : Fin 16
  kind : DeviceKind
deriving DecidableEq, Repr

/-- The parameter DEVICES: for each of the sixteen numbers what is attached there, if anything; so at most one device a number
(R421). -/
abbrev DeviceSet := Vector (Option DeviceKind) 16

/-- No device attached. -/
def noDevices : DeviceSet := Vector.replicate 16 none

/-- The machine's state. Plain data. -/
structure State where
  /-- Program counter (10_state.md R22). -/
  pc : Word
  /-- Stack pointer (R23). -/
  sp : Word
  /-- Command register (R24). -/
  cr : Word
  /-- Address register (R25). -/
  ar : Word
  /-- Data register (R26). -/
  dr : Word
  /-- Status register (R27 to R31). -/
  sr : Word
  /-- Buffer register, the microprogram's scratch register (R26). -/
  br : Word
  /-- The memory (R33). -/
  mem : Memory
  /-- The tick counter (R35). -/
  ticks : Nat
  /-- The instruction counter (R35). -/
  instructions : Nat
  /-- The control unit's phase (R35). -/
  phase : Phase
  /-- The position in the current microprogram (R35). DESIGN CHOICE: FETCH counts its own four microinstructions in it, and it
  is 0 at load, in DECODE and in DEVICE-POLL (log 22). -/
  microPos : Nat
  /-- The fault status: none, or the kind of the fault that ended the run (R35). -/
  faultStatus : Option FaultKind
  /-- The attached devices, the parameter DEVICES, with their states (R38). -/
  devices : DeviceSet
  /-- The parameter SHIFT_FLAGS (00_scope.md R10). -/
  shiftFlags : ShiftFlags
  /-- The parameter OPCODE_MAP (00_scope.md R10). -/
  opcodeMap : OpcodeMap
deriving DecidableEq, Repr

/-- The named parameters of 00_scope.md R10, which the host supplies with a listing (60_exceptions.md R437). -/
structure Params where
  devices : DeviceSet
  memInit : Word
  spReset : Addr
  shiftFlags : ShiftFlags
  opcodeMap : OpcodeMap
deriving DecidableEq, Repr

/-- The defaults of R10; DEVICES has none and is empty (log 6). -/
def defaultParams : Params :=
  { devices := noDevices, memInit := 0, spReset := 0xFFFFFF, shiftFlags := .pre, opcodeMap := defaultOpcodeMap }

/-- The memory in which every cell holds `MEM_INIT` (20_memory.md R70). -/
def Memory.blank (init : Word) : Memory := { init := init, cells := [] }

/-- The start state the loader leaves for an entry address and a memory (10_state.md R36, 70_reset_and_hazards.md R455). The
micro-position 0 is the model's choice (log 22). -/
def State.launch (p : Params) (entry : Addr) (mem : Memory) : State :=
  { pc := entry.setWidth 32, sp := p.spReset.setWidth 32,
    cr := 0, ar := 0, dr := 0, sr := 0x00008000, br := 0,
    mem := mem, ticks := 0, instructions := 0,
    phase := .fetch, microPos := 0, faultStatus := none,
    devices := p.devices, shiftFlags := p.shiftFlags, opcodeMap := p.opcodeMap }

/-- The state after reset: a launch with the default parameters and no cell named (R36). PC, which only a listing gives, is
0x20, where the image begins (20_memory.md R60; log 5). -/
def State.reset : State := State.launch defaultParams 0x000020 (Memory.blank defaultParams.memInit)

end Sys2Proof.Machine
end

