-- ==== Sys2Proof/Machine/Ops.lean ====
section
/-! DEFINITION. The named operations over memory and registers, and taking an execution fault (20_memory.md R55;
60_exceptions.md R400, R401; 00_scope.md R12). -/

namespace Sys2Proof.Machine

/-! ## Words -/

/-- `v mod 2^24` (00_scope.md R12). -/
def trunc24 (v : Word) : Word := v &&& 0x00FFFFFF#32

/-- `v mod 2^32`, of an unbounded integer (00_scope.md R12, 40_datapath.md R163). -/
def mask32 (v : Int) : Word := BitVec.ofInt 32 v

/-! ## Memory -/

/-- The number of cells (20_memory.md R51). -/
def cellCount : Nat := 2 ^ 24

/-- The value listed for a cell, if any. -/
def lookupCell : List (Nat × Word) → Nat → Option Word
  | [], _ => none
  | (b, w) :: rest, a => if b = a then some w else lookupCell rest a

/-- `cells[a]`: the listed value, or MEM_INIT (R70). -/
def Memory.read (m : Memory) (a : Nat) : Word := (lookupCell m.cells a).getD m.init

/-- The list with `v` at cell `a`, in its place among rising indices. -/
def insertCell (a : Nat) (v : Word) : List (Nat × Word) → List (Nat × Word)
  | [] => [(a, v)]
  | (b, w) :: rest =>
    if a < b then (a, v) :: (b, w) :: rest
    else if a = b then (a, v) :: rest
    else (b, w) :: insertCell a v rest

/-- The list without cell `a`. -/
def eraseCell (a : Nat) (cells : List (Nat × Word)) : List (Nat × Word) := cells.filter (fun e => e.1 ≠ a)

/-- `cells[a] <- v`; a cell that comes to hold MEM_INIT is not listed. -/
def Memory.write (m : Memory) (a : Nat) (v : Word) : Memory :=
  { m with cells := if v = m.init then eraseCell a m.cells else insertCell a v m.cells }

/-- The canonical form: strictly rising cell indices below 2^24, none listed with MEM_INIT. -/
def Memory.wf (m : Memory) : Bool :=
  decide (m.cells.Pairwise (fun x y => x.1 < y.1)) &&
  m.cells.all (fun e => decide (e.1 < cellCount) && decide (e.2 ≠ m.init))

/-- `MemRead(a, 1)` (20_memory.md R55). -/
def memRead (m : Memory) (a : Word) : Except FaultKind Word :=
  if a.toNat < cellCount then .ok (m.read a.toNat) else .error .addressOutOfRange

/-- `MemWrite(a, 1, v)` (20_memory.md R55). -/
def memWrite (m : Memory) (a v : Word) : Except FaultKind Memory :=
  if a.toNat < cellCount then .ok (m.write a.toNat v) else .error .addressOutOfRange

/-! ## Registers -/

/-- The value of a register (10_state.md R20). -/
def State.reg (s : State) : Reg → Word
  | .pc => s.pc | .sp => s.sp | .cr => s.cr | .ar => s.ar | .dr => s.dr | .sr => s.sr | .br => s.br

/-- The new value of a register under a target mask (40_datapath.md R177). -/
def selected (mask : BitVec 8) (r : Reg) (v old : Word) : Word := if mask.getLsbD r.maskBit then v else old

/-- `v` written to every register whose bit is set in the mask; bit 7 names none (30_encoding.md R97, 40_datapath.md R177). -/
def State.writeRegs (s : State) (mask : BitVec 8) (v : Word) : State :=
  { s with
    pc := selected mask .pc v s.pc
    sp := selected mask .sp v s.sp
    cr := selected mask .cr v s.cr
    ar := selected mask .ar v s.ar
    dr := selected mask .dr v s.dr
    sr := selected mask .sr v s.sr
    br := selected mask .br v s.br }

/-! ## Taking an execution fault

There is no trap entry and no return from one (60_exceptions.md R408): a fault records its kind and the run is over. -/

/-- The number of a fault kind (60_exceptions.md R400). -/
def FaultKind.code : FaultKind → Nat
  | .unknownOpcode => 1
  | .divisionByZero => 2
  | .addressOutOfRange => 3
  | .reservedMicroop => 4

/-- `fault <- kind` (60_exceptions.md R401). Nothing else changes here: the caller counts the tick of a faulting
microinstruction, and executes nothing more. -/
def State.raiseFault (s : State) (k : FaultKind) : State := { s with faultStatus := some k }

end Sys2Proof.Machine
end

