-- ==== Sys2Proof/Machine/Operands.lean ====
section
/-! DEFINITION. The operand forms: the registers a microinstruction gathers, the operand transforms, the operand field of the
command register, and the stack cells (40_datapath.md R161, R177; 30_encoding.md R84; 00_scope.md R15). -/

namespace Sys2Proof.Machine

/-- The value a register contributes to an operand: itself when its mask bit is set, else 0. -/
def contribution (s : State) (mask : BitVec 8) (r : Reg) : Word := if mask.getLsbD r.maskBit then s.reg r else 0

/-- The OR of every register whose bit is set in the mask, 0 if none (40_datapath.md R177); bit 7 contributes 0
(30_encoding.md R97). -/
def gather (s : State) (mask : BitVec 8) : Word :=
  contribution s mask .pc ||| contribution s mask .sp ||| contribution s mask .cr ||| contribution s mask .ar |||
  contribution s mask .dr ||| contribution s mask .sr ||| contribution s mask .br

/-- A transform, on unbounded integers: complement first, then increment (40_datapath.md R161). -/
def applyTransform (t : Transform) (x : Int) : Int :=
  match t with
  | .id => x
  | .cpl => -x - 1
  | .inc => x + 1
  | .neg => -x - 1 + 1

/-- The left operand's transform in an ALU code: bits 2 and 3 (30_encoding.md R98). -/
def leftTransform (code : BitVec 6) : Transform := Transform.ofBits (code.getLsbD 2) (code.getLsbD 3)

/-- The right operand's transform in an ALU code: bits 4 and 5 (30_encoding.md R98). -/
def rightTransform (code : BitVec 6) : Transform := Transform.ofBits (code.getLsbD 4) (code.getLsbD 5)

/-- The command register with an instruction's operand in bits 23:0. After FETCH and DECODE of that instruction this changes
nothing; it makes the meaning of a format A instruction that of its operand in every state (log 8). -/
def State.loadOperand (s : State) (operand : Addr) : State :=
  { s with cr := (s.cr &&& 0xFF000000#32) ||| operand.setWidth 32 }

/-- The index of the top cell of the stack (00_scope.md R15). -/
def State.tosAddr (s : State) : Nat := (trunc24 s.sp).toNat

/-- The index of the next cell on the stack, SP + 1 modulo 2^24 (00_scope.md R15). -/
def State.nosAddr (s : State) : Nat := (trunc24 (s.sp + 1)).toNat

/-- The index of the cell a push writes, SP - 1 modulo 2^24 (42_stack_management.md R230). -/
def State.pushAddr (s : State) : Nat := (trunc24 (s.sp - 1)).toNat

/-- TOS, the top cell (00_scope.md R15). -/
def State.tos (s : State) : Word := s.mem.read s.tosAddr

/-- NOS, the next cell (00_scope.md R15). -/
def State.nos (s : State) : Word := s.mem.read s.nosAddr

end Sys2Proof.Machine
end

