-- ==== Sys2Proof/Machine/Flags.lean ====
section
/-! DEFINITION. The status register's fields, the ALU flags and the flag-commit stage (10_state.md R27; 40_datapath.md R160,
R164 to R166, R175). -/

namespace Sys2Proof.Machine

/-! ## The fields of SR (10_state.md R27) -/

/-- Carry, bit 0. -/
def State.flagC (s : State) : Bool := s.sr.getLsbD 0

/-- Overflow, bit 1. -/
def State.flagV (s : State) : Bool := s.sr.getLsbD 1

/-- Zero, bit 2. -/
def State.flagZ (s : State) : Bool := s.sr.getLsbD 2

/-- Negative, bit 3. -/
def State.flagN (s : State) : Bool := s.sr.getLsbD 3

/-- Interrupt enable, bit 14. -/
def State.flagIE (s : State) : Bool := s.sr.getLsbD 14

/-- Run (1) or halt (0), bit 15. -/
def State.flagRUN (s : State) : Bool := s.sr.getLsbD 15

/-- A word with one bit set or cleared. -/
def putBit (w : Word) (k : Nat) (b : Bool) : Word := if b then w ||| (1#32 <<< k) else w &&& ~~~(1#32 <<< k)

/-! ## The ALU flags -/

/-- The flags the ALU gives with a result (40_datapath.md R160). -/
structure AluFlags where
  c : Bool
  v : Bool
  z : Bool
  n : Bool
deriving DecidableEq, Repr

/-- The flags nibble: C bit 0, V bit 1, Z bit 2, N bit 3 (R160). -/
def AluFlags.nibble (f : AluFlags) : BitVec 4 :=
  BitVec.ofBool f.n ++ BitVec.ofBool f.z ++ BitVec.ofBool f.v ++ BitVec.ofBool f.c

/-- Carry: the unbounded result exceeds 0xFFFFFFFF (R164). -/
def carryOf (res : Int) : Bool := decide (res > 0xFFFFFFFF)

/-- Overflow: both transformed operands positive and the unbounded result negative, or both negative and it positive (R165). -/
def overflowOf (l r res : Int) : Bool :=
  (decide (l > 0) && decide (r > 0) && decide (res < 0)) || (decide (l < 0) && decide (r < 0) && decide (res > 0))

/-- Zero: the masked result is 0 (R166). -/
def zeroOf (result : Word) : Bool := decide (result = 0)

/-- Negative: bit 31 of the masked result (R166). -/
def negativeOf (result : Word) : Bool := result.getLsbD 31

/-- The flags of an operation on transformed operands `l`, `r` with unbounded result `res` (R164 to R166). -/
def aluFlags (l r res : Int) : AluFlags :=
  { c := carryOf res, v := overflowOf l r res, z := zeroOf (mask32 res), n := negativeOf (mask32 res) }

/-! ## The flag-commit stage (40_datapath.md R175) -/

/-- SR with Z and N taken from the flags. -/
def commitNZ (f : AluFlags) (sr : Word) : Word := putBit (putBit sr 2 f.z) 3 f.n

/-- SR with V taken from the flags. -/
def commitV (f : AluFlags) (sr : Word) : Word := putBit sr 1 f.v

/-- SR with C taken from the flags. -/
def commitC (f : AluFlags) (sr : Word) : Word := putBit sr 0 f.c

/-- The commit gates: STNZ bit 7, STV bit 8, STC bit 9 of the commutator code (30_encoding.md R99). -/
def commitFlags (comm : BitVec 10) (f : AluFlags) (sr : Word) : Word :=
  let sr1 := if comm.getLsbD 7 then commitNZ f sr else sr
  let sr2 := if comm.getLsbD 8 then commitV f sr1 else sr1
  if comm.getLsbD 9 then commitC f sr2 else sr2

end Sys2Proof.Machine
end

