-- ==== Sys2Proof/Machine/Devices.lean ====
section
/-! DEFINITION. Device control blocks, the packing of bytes in cells, and the DEVICE-POLL phase (20_memory.md R53, R61;
60_exceptions.md R420 to R427). -/

namespace Sys2Proof.Machine

/-! ## Bytes in cells, big-endian (20_memory.md R53) -/

/-- Four bytes as a word, the first in bits 31:24. -/
def packWord (a b c d : Byte) : Word := a ++ b ++ c ++ d

/-- Bytes as words; the unused low bytes of the last word are 0. -/
def packBytes : List Byte → List Word
  | [] => []
  | [a] => [packWord a 0 0 0]
  | [a, b] => [packWord a b 0 0]
  | [a, b, c] => [packWord a b c 0]
  | a :: b :: c :: d :: rest => packWord a b c d :: packBytes rest

/-- The bytes of a word, the one in bits 31:24 first. -/
def unpackWord (w : Word) : List Byte :=
  [w.extractLsb' 24 8, w.extractLsb' 16 8, w.extractLsb' 8 8, w.extractLsb' 0 8]

/-! ## The control block (20_memory.md R61) -/

/-- The cell of a block's first word: ready flag, handler address. -/
def blockStatus (n : Fin 16) : Nat := 2 * n.val

/-- The cell of a block's second word: transfer size, buffer base. -/
def blockBuffer (n : Fin 16) : Nat := 2 * n.val + 1

/-- The ready flag, bit 31 of the first word. -/
def readyFlag (m : Memory) (n : Fin 16) : Bool := (m.read (blockStatus n)).getLsbD 31

/-- The flags byte, bits 31:24 of the first word: the ready flag, and bits that mean nothing to the core (92_eei_decisions.md D50). -/
def flagsByte (m : Memory) (n : Fin 16) : Byte := (m.read (blockStatus n)).extractLsb' 24 8

/-- The interrupt-handler address, bits 23:0 of the first word: read by no agent (60_exceptions.md R422). -/
def handlerAddress (m : Memory) (n : Fin 16) : Addr := (m.read (blockStatus n)).extractLsb' 0 24

/-- The transfer size in bytes, bits 31:24 of the second word. -/
def transferSize (m : Memory) (n : Fin 16) : Nat := ((m.read (blockBuffer n)).extractLsb' 24 8).toNat

/-- The buffer base, bits 23:0 of the second word. -/
def bufferBase (m : Memory) (n : Fin 16) : Nat := ((m.read (blockBuffer n)).extractLsb' 0 24).toNat

/-- The buffer's cells: `trunc24(b + j)` for j below ceil(s / 4) (60_exceptions.md R422). -/
def bufferCells (m : Memory) (n : Fin 16) : List Nat :=
  (List.range ((transferSize m n + 3) / 4)).map (fun j => (bufferBase m n + j) % cellCount)

/-! ## What a poll may write (60_exceptions.md R425) -/

/-- Words written to cells, but for the two words of the device's own block, which a poll writes only through the ready flag
(R425; log 10). -/
def writeBuffer (n : Fin 16) : List (Nat × Word) → Memory → Memory
  | [], m => m
  | (a, w) :: rest, m =>
    writeBuffer n rest (if a = blockStatus n ∨ a = blockBuffer n then m else m.write a w)

/-- Bit 31 of the block's first word set to `ready`; bits 30:0 keep their value. -/
def writeReady (n : Fin 16) (ready : Bool) (m : Memory) : Memory :=
  m.write (blockStatus n) (putBit (m.read (blockStatus n)) 31 ready)

/-- All that a poll can do to the memory: words into the first cells of its buffer, and the ready flag. -/
def pollEffect (n : Fin 16) (ready : Bool) (ws : List Word) (m : Memory) : Memory :=
  writeReady n ready (writeBuffer n ((bufferCells m n).zip ws) m)

/-! ## The devices (60_exceptions.md R426) -/

/-- The reference input device: with pending input and the flag at 0, the next min(s, pending) bytes go to the buffer and the
flag is set; otherwise nothing (R426; log 11). -/
def pollInput (n : Fin 16) (pending : List Byte) (m : Memory) : DeviceKind × Memory :=
  if readyFlag m n = false ∧ pending ≠ [] then
    let k := min (transferSize m n) pending.length
    (.input (pending.drop k), pollEffect n true (packBytes (pending.take k)) m)
  else (.input pending, m)

/-- The bytes of the buffer, as many as the transfer size. -/
def bufferBytes (m : Memory) (n : Fin 16) : List Byte :=
  ((bufferCells m n).flatMap (fun a => unpackWord (m.read a))).take (transferSize m n)

/-- The reference output device: with the flag at 1, it takes the bytes of the buffer and clears the flag; otherwise nothing
(R426, conflict C10; log 11). -/
def pollOutput (n : Fin 16) (sink : List Byte) (m : Memory) : DeviceKind × Memory :=
  if readyFlag m n then (.output (sink ++ bufferBytes m n), pollEffect n false [] m)
  else (.output sink, m)

/-- Any other device: what it does is free within R425, read at all that it may read: its block without the handler address, which
no agent reads (R422), and its buffer (log 9). -/
def pollHost (n : Fin 16) (st : Nat) (m : Memory) : DeviceKind × Memory :=
  let flags := flagsByte m n
  let w1 := m.read (blockBuffer n)
  let buffer := (bufferCells m n).map m.read
  (.host (Config.hostNext n.val st flags w1 buffer),
   pollEffect n (Config.hostReady n.val st flags w1 buffer)
     ((List.range buffer.length).map (Config.hostCell n.val st flags w1 buffer)) m)

/-- One device's `poll()` (R420). -/
def pollDevice (d : Device) (m : Memory) : Device × Memory :=
  let r := match d.kind with
    | .input pending => pollInput d.number pending m
    | .output sink => pollOutput d.number sink m
    | .host st => pollHost d.number st m
  ({ d with kind := r.1 }, r.2)

/-- The devices of the slots numbered from `n` up, polled one at a time, each on the memory the one before it left; an empty
slot is passed over (R421, R423). -/
def pollFrom : Fin 16 → List (Option DeviceKind) → Memory → List (Option DeviceKind) × Memory
  | _, [], m => ([], m)
  | n, none :: rest, m =>
    let r := pollFrom (n + 1) rest m
    (none :: r.1, r.2)
  | n, some k :: rest, m =>
    let p := pollDevice ⟨n, k⟩ m
    let r := pollFrom (n + 1) rest p.2
    (some p.1.kind :: r.1, r.2)

/-- The polls attach and detach nothing. -/
theorem pollFrom_attached (l : List (Option DeviceKind)) (n : Fin 16) (m : Memory) :
    (pollFrom n l m).1.map Option.isSome = l.map Option.isSome := by
  induction l generalizing n m with
  | nil => rfl
  | cons d rest ih => cases d <;> simp [pollFrom, ih]

theorem pollFrom_size (ds : DeviceSet) (m : Memory) : (pollFrom 0 ds.toList m).1.toArray.size = 16 := by
  have h := congrArg List.length (pollFrom_attached ds.toList 0 m)
  simpa using h

/-- Every attached device polled, one at a time, in ascending device number 0 to 15 (R423, 40_datapath.md R188). -/
def pollAll (ds : DeviceSet) (m : Memory) : DeviceSet × Memory :=
  (⟨(pollFrom 0 ds.toList m).1.toArray, pollFrom_size ds m⟩, (pollFrom 0 ds.toList m).2)

/-- The DEVICE-POLL phase: devices and memory only; no register, no counter (R425, 40_datapath.md R188). -/
def State.devicePoll (s : State) : State :=
  { s with devices := (pollAll s.devices s.mem).1, mem := (pollAll s.devices s.mem).2 }

end Sys2Proof.Machine
end

