-- ==== Sys2Proof/Machine/Alu.lean ====
section
/-! DEFINITION. The arithmetic-logic unit (40_datapath.md R160 to R167). -/

namespace Sys2Proof.Machine

/-- The bitwise AND of the infinite two's-complement representations (00_scope.md R13). A negative integer `-(n + 1)` is the
complement of `n`. -/
def intAnd : Int → Int → Int
  | .ofNat a, .ofNat b => .ofNat (a &&& b)
  | .ofNat a, .negSucc b => .ofNat (a ^^^ (a &&& b))
  | .negSucc a, .ofNat b => .ofNat (b ^^^ (b &&& a))
  | .negSucc a, .negSucc b => .negSucc (a ||| b)

/-- The operation on transformed operands, unbounded; DIV rounds toward negative infinity and faults on a zero divisor
(40_datapath.md R162). -/
def aluResult (op : AluOp) (l r : Int) : Except FaultKind Int :=
  match op with
  | .add => .ok (l + r)
  | .and => .ok (intAnd l r)
  | .mul => .ok (l * r)
  | .div => if r = 0 then .error .divisionByZero else .ok (Int.fdiv l r)

/-- `compute(lhs, rhs, code)` (40_datapath.md R160): the result masked last (R163), and the flags. -/
def aluCompute (lhs rhs : Word) (code : BitVec 6) : Except FaultKind (Word × AluFlags) :=
  let l := applyTransform (leftTransform code) (lhs.toNat : Int)
  let r := applyTransform (rightTransform code) (rhs.toNat : Int)
  match aluResult (AluOp.ofCode (code.extractLsb' 0 2)) l r with
  | .ok res => .ok (mask32 res, aluFlags l r res)
  | .error k => .error k

end Sys2Proof.Machine
end

