-- ==== Sys2Proof/Machine/Commutator.lean ====
section
/-! DEFINITION. The commutator: lane routing, shifts and flag commit (40_datapath.md R170 to R175; 30_encoding.md R99). -/

namespace Sys2Proof.Machine

/-- Lane stage: all four lane bits truncate to 24 bits, otherwise the selected movements of the 16-bit halves are OR-ed
(40_datapath.md R170). -/
def laneStage (value : Word) (comm : BitVec 10) : Word :=
  let ltoh := comm.getLsbD 0
  let ltol := comm.getLsbD 1
  let htol := comm.getLsbD 2
  let htoh := comm.getLsbD 3
  let lo := value &&& 0x0000FFFF#32
  let hi := value >>> 16
  if ltoh && ltol && htol && htoh then trunc24 value
  else
    (if ltol then lo else 0) ||| (if ltoh then lo <<< 16 else 0) |||
    (if htol then hi else 0) ||| (if htoh then hi <<< 16 else 0)

/-- SHIFT, the shift selector: bits 6:4 (30_encoding.md R99). -/
def shiftSelector (comm : BitVec 10) : Nat := (comm.extractLsb' 4 3).toNat

/-- Shift stage, on the input value, overriding the lane stage; selectors 5 to 7 are reserved (40_datapath.md R172). -/
def commutate (value : Word) (comm : BitVec 10) : Except FaultKind Word :=
  match shiftSelector comm with
  | 0 => .ok (laneStage value comm)
  | 1 => .ok (value <<< 1)
  | 2 => .ok (value >>> 1)
  | 3 => .ok ((value <<< 1) ||| (value >>> 31))
  | 4 => .ok ((value >>> 1) ||| ((value &&& 1) <<< 31))
  | _ => .error .reservedMicroop

/-- `apply(value, code, alu_flags, status_register)` (40_datapath.md R170): the output and the status register after the
commit of R175. -/
def commutatorApply (value : Word) (comm : BitVec 10) (f : AluFlags) (sr : Word) : Except FaultKind (Word × Word) :=
  match commutate value comm with
  | .ok out => .ok (out, commitFlags comm f sr)
  | .error k => .error k

end Sys2Proof.Machine
end

