-- ==== Sys2Proof/Machine/DataPath.lean ====
section
/-! DEFINITION. The data path: one microinstruction a tick (40_datapath.md R176 to R181), and a microprogram run to its end or
to its first fault (40_datapath.md R183; 60_exceptions.md R401). -/

namespace Sys2Proof.Machine

/-- A register transfer, CLASS 0b000: gather, ALU, commutator with flag commit, then write-back to every target
(40_datapath.md R177). The write-back comes after the commit, so SR as a target is overwritten (R180). -/
def transfer (m : MicroInstr) (s : State) : Except FaultKind State :=
  match aluCompute (gather s m.lhs) (gather s m.rhs) m.alu with
  | .error k => .error k
  | .ok (res, flags) =>
    match commutatorApply res m.comm flags s.sr with
    | .error k => .error k
    | .ok (out, sr') => .ok (State.writeRegs { s with sr := sr' } m.tgt out)

/-- READ: `DR <- cells[AR]` (40_datapath.md R178). -/
def readCell (s : State) : Except FaultKind State :=
  match memRead s.mem s.ar with
  | .ok v => .ok { s with dr := v }
  | .error k => .error k

/-- WRITE: `cells[AR] <- DR` (40_datapath.md R178). -/
def writeCell (s : State) : Except FaultKind State :=
  match memWrite s.mem s.ar s.dr with
  | .ok mem' => .ok { s with mem := mem' }
  | .error k => .error k

/-- `execute(microinstruction)`: the class is decoded first; a reserved class faults (40_datapath.md R176, R179), and so does
a reserved SHIFT value in any class (30_encoding.md R100; 60_exceptions.md R404): in a transfer when the commutator meets it. DESIGN
CHOICE: a READ or WRITE, which ignores COMM otherwise (R178), meets it before its memory access (log 23). -/
def dataPath (m : MicroInstr) (s : State) : Except FaultKind State :=
  if m.cls = 0 then transfer m s
  else if m.shiftAssigned = false then .error .reservedMicroop
  else if m.cls = 1 then readCell s
  else if m.cls = 2 then writeCell s
  else .error .reservedMicroop

/-- The data path on a packed 43-bit word (30_encoding.md R95). -/
def dataPathWord (w : BitVec 43) (s : State) : Except FaultKind State := dataPath (MicroInstr.unpack w) s

/-- One tick (40_datapath.md R181): the microinstruction's effect, the tick counter, the micro-position. A faulting
microinstruction changes nothing but the tick counter and the fault status (60_exceptions.md R401; log 12). -/
def microTick (m : MicroInstr) (s : State) : State :=
  match dataPath m s with
  | .ok s' => { s' with ticks := s'.ticks + 1, microPos := s'.microPos + 1 }
  | .error k => State.raiseFault { s with ticks := s.ticks + 1 } k

/-- A microprogram, in order, to its end or to its first fault (40_datapath.md R183; 60_exceptions.md R401). -/
def runMicro : List MicroInstr → State → State
  | [], s => s
  | m :: rest, s =>
    match dataPath m s with
    | .ok s' => runMicro rest { s' with ticks := s'.ticks + 1, microPos := s'.microPos + 1 }
    | .error k => State.raiseFault { s with ticks := s.ticks + 1 } k

end Sys2Proof.Machine
end

