-- ==== Sys2Proof/Machine/Microcode.lean ====
section
/-! DEFINITION. The notation and the idioms of the microprograms (00_scope.md R16; 40_datapath.md R171, R185, R189). -/

namespace Sys2Proof.Machine

/-! ## Named commutator codes (30_encoding.md R99, 40_datapath.md R171) -/

/-- PASS: low to low and high to high. -/
def commPASS : BitVec 10 := 0x00A

/-- CUTB: all four lanes, truncation to 24 bits. -/
def commCUTB : BitVec 10 := 0x00F

/-- HTOL: the high lane to the low lane. -/
def commHTOL : BitVec 10 := 0x004

/-- SHL. -/
def commSHL : BitVec 10 := 0x010

/-- SHR. -/
def commSHR : BitVec 10 := 0x020

/-- ROL. -/
def commROL : BitVec 10 := 0x030

/-- ROR. -/
def commROR : BitVec 10 := 0x040

/-- The commit set {NZ}: STNZ. -/
def gateNZ : BitVec 10 := 0x080

/-- The commit set {NZ,V,C}: STNZ, STV, STC. -/
def gateNZVC : BitVec 10 := 0x380

/-! ## Named register masks (30_encoding.md R97) -/

/-- "-": no register. -/
def mNone : BitVec 8 := 0

def mPC : BitVec 8 := Reg.pc.mask
def mSP : BitVec 8 := Reg.sp.mask
def mCR : BitVec 8 := Reg.cr.mask
def mAR : BitVec 8 := Reg.ar.mask
def mDR : BitVec 8 := Reg.dr.mask
def mSR : BitVec 8 := Reg.sr.mask
def mBR : BitVec 8 := Reg.br.mask

/-! ## Microinstructions (00_scope.md R16) -/

/-- `tgt <- comm(op(l(lhs), r(rhs)))`. -/
def xfer (tgt : BitVec 8) (op : AluOp) (l : Transform) (lhs : BitVec 8) (r : Transform) (rhs : BitVec 8)
    (comm : BitVec 10) : MicroInstr :=
  { cls := 0, tgt := tgt, lhs := lhs, rhs := rhs, alu := aluCode op l r, comm := comm }

/-- READ. -/
def uREAD : MicroInstr := { cls := 1, tgt := 0, lhs := 0, rhs := 0, alu := 0, comm := 0 }

/-- WRITE. -/
def uWRITE : MicroInstr := { cls := 2, tgt := 0, lhs := 0, rhs := 0, alu := 0, comm := 0 }

/-- `tgt <- comm(ADD(id(src), id(-)))`: a move. -/
def move (tgt src : BitVec 8) (comm : BitVec 10) : MicroInstr := xfer tgt .add .id src .id mNone comm

/-! ## FETCH (40_datapath.md R185) -/

/-- F1 to F4, with BR as the scratch register. -/
def fetchProgram : List MicroInstr :=
  [move (mAR ||| mBR) mPC commCUTB,
   uREAD,
   move mCR mDR commPASS,
   xfer mPC .add .inc mBR .id mNone commCUTB]

/-! ## Idioms (40_datapath.md R189) -/

/-- AR=SP. -/
def uArSp : MicroInstr := move mAR mSP commCUTB

/-- AR=SP+1. -/
def uArSp1 : MicroInstr := xfer mAR .add .inc mSP .id mNone commCUTB

/-- SP+1. -/
def uSpInc1 : MicroInstr := xfer mSP .add .inc mSP .id mNone commCUTB

/-- SP+2. -/
def uSpInc2 : MicroInstr := xfer mSP .add .inc mSP .inc mNone commCUTB

/-- SP-1: `SP,AR <- CUTB(ADD(id(SP), cpl(-)))`. -/
def uSpDec : MicroInstr := xfer (mSP ||| mAR) .add .id mSP .cpl mNone commCUTB

/-- BR=DR. -/
def uBrDr : MicroInstr := move mBR mDR commPASS

/-- DR=BR, the seventh transfer of `swap` (R190). -/
def uDrBr : MicroInstr := move mDR mBR commPASS

/-- `PC <- CUTB(ADD(id(CR), id(-)))`: a jump to the operand (R190). -/
def uPcCr : MicroInstr := move mPC mCR commCUTB

/-- `AR <- CUTB(ADD(id(CR), id(-)))`: the operand as a cell index (R190). -/
def uArCr : MicroInstr := move mAR mCR commCUTB

/-- `PC <- CUTB(ADD(id(DR), id(-)))`: a jump to the word read (R190). -/
def uPcDr : MicroInstr := move mPC mDR commCUTB

/-- BIT31: `BR <- ROR(ADD(inc(-), id(-)))`, BR = 0x80000000. -/
def uBit31 : MicroInstr := xfer mBR .add .inc mNone .id mNone commROR

/-- BIT15: BR = 0x00008000, in two ticks. -/
def bit15Program : List MicroInstr := [uBit31, move mBR mBR commHTOL]

/-- BIT14: BR = 0x00004000, in three ticks. -/
def bit14Program : List MicroInstr := [uBit31, move mBR mBR commSHR, move mBR mBR commHTOL]

/-- `DR <- PASS(ADD(cpl(DR), id(-)))` with a commit set: the second pass of an OR, and NOT (R190). -/
def uDrNotDr (gates : BitVec 10) : MicroInstr := xfer mDR .add .cpl mDR .id mNone (commPASS ||| gates)

/-- `DR <- PASS(AND(cpl(DR), cpl(BR)))`: the first pass of an OR (R190). -/
def uDrNor : MicroInstr := xfer mDR .and .cpl mDR .cpl mBR commPASS

/-! ## The shapes shared by several rows of 40_datapath.md R190 -/

/-- Both operands read: AR=SP; READ; BR=DR; AR=SP+1; READ. BR holds TOS and DR holds NOS. -/
def readPair : List MicroInstr := [uArSp, uREAD, uBrDr, uArSp1, uREAD]

/-- The top cell read: AR=SP; READ. -/
def readTop : List MicroInstr := [uArSp, uREAD]

/-- A binary operation: the operands read, the transfers that compute DR, then WRITE; SP+1. -/
def binaryProgram (compute : List MicroInstr) : List MicroInstr := readPair ++ compute ++ [uWRITE, uSpInc1]

/-- A unary operation in place: the top cell read, the transfers that compute DR, then WRITE. -/
def unaryProgram (compute : List MicroInstr) : List MicroInstr := readTop ++ compute ++ [uWRITE]

/-- `DR <- PASS(op(id(DR), r(BR)))` with a commit set: the combining transfer of a binary operation. -/
def combine (op : AluOp) (r : Transform) (gates : BitVec 10) : MicroInstr :=
  xfer mDR op .id mDR r mBR (commPASS ||| gates)

/-- The shifting transfer of SHL, SHR, ROL and ROR; with SHIFT_FLAGS = post the flags come from a transfer after it (R190). -/
def shiftCompute (shift : BitVec 10) : ShiftFlags → List MicroInstr
  | .pre => [move mDR mDR (shift ||| gateNZ)]
  | .post => [move mDR mDR shift, move mNone mDR (commPASS ||| gateNZ)]

end Sys2Proof.Machine
end

