-- ==== Sys2Proof/Machine/ControlUnit.lean ====
section
/-! DEFINITION. The control unit's cycle, phase by phase (40_datapath.md R182 to R188). -/

namespace Sys2Proof.Machine

/-- The run has ended: a fault was taken, or SR.RUN is 0 at the top of the cycle (40_datapath.md R183, 10_state.md R39). -/
def runEnded (s : State) : Option Fault :=
  match s.faultStatus with
  | some k => some (.runFaulted k)
  | none => if s.flagRUN then none else some .runHalted

/-- FETCH: four ticks (40_datapath.md R185). It never faults (R192). -/
def State.fetch (s : State) : State :=
  { runMicro fetchProgram { s with phase := .fetch, microPos := 0 } with phase := .decode, microPos := 0 }

/-- The start of EXECUTE. -/
def State.enterExecute (s : State) : State := { s with phase := .execute, microPos := 0 }

/-- The end of an instruction that completed: the instruction counter, then DEVICE-POLL (40_datapath.md R183, R184, R188). -/
def State.complete (s : State) : State :=
  { State.devicePoll { s with instructions := s.instructions + 1 } with phase := .fetch, microPos := 0 }

/-- What follows EXECUTE: the completion, unless the instruction took a fault (60_exceptions.md R401). -/
def afterExecute (o : Host.Outcome State Fault Refusal) : Host.Outcome State Fault Refusal :=
  match o with
  | .next s => .next (match s.faultStatus with | none => s.complete | some _ => s)
  | .fault f => .fault f
  | .refused r => .refused r

/-- An instruction word stored in the cell PC names. -/
def storeAtPc (s : State) (w : Word) : State := { s with mem := s.mem.write (trunc24 s.pc).toNat w }

end Sys2Proof.Machine
end

