-- ==== Sys2Proof/Machine/ControlFlow.lean ====
section
/-! DEFINITION. Control flow (43_control_flow.md R260 to R269): the conditions, the one microprogram of a jump
(40_datapath.md R190), and the meanings. A condition is read from SR as it stands at the start of EXECUTE (R260). -/

namespace Sys2Proof.Machine

/-- Z = 1 (R262). -/
def condJz (s : State) : Bool := s.flagZ

/-- Z = 1 (R263). -/
def condJe (s : State) : Bool := s.flagZ

/-- Z = 0 (R264). -/
def condJnz (s : State) : Bool := !s.flagZ

/-- Z = 0 and N = 0 (R265). -/
def condJg (s : State) : Bool := !s.flagZ && !s.flagN

/-- N = 0 (R266). -/
def condJge (s : State) : Bool := !s.flagN

/-- N = 1 (R267). -/
def condJl (s : State) : Bool := s.flagN

/-- N = 1 or Z = 1 (R268). -/
def condJle (s : State) : Bool := s.flagN || s.flagZ

/-- Rows jmp and jz to jle: the transfer when the condition holds, no microinstruction when it does not (R190). -/
def jumpProgram (taken : Bool) : List MicroInstr := if taken then [uPcCr] else []

/-- JMP (R261). -/
def execJmp (target : Addr) (s : State) : Host.Outcome State Fault Refusal :=
  .next (runMicro (jumpProgram true) (s.loadOperand target))

/-- JZ (R262). -/
def execJz (target : Addr) (s : State) : Host.Outcome State Fault Refusal :=
  .next (runMicro (jumpProgram (condJz s)) (s.loadOperand target))

/-- JE (R263). -/
def execJe (target : Addr) (s : State) : Host.Outcome State Fault Refusal :=
  .next (runMicro (jumpProgram (condJe s)) (s.loadOperand target))

/-- JNZ (R264). -/
def execJnz (target : Addr) (s : State) : Host.Outcome State Fault Refusal :=
  .next (runMicro (jumpProgram (condJnz s)) (s.loadOperand target))

/-- JG (R265). -/
def execJg (target : Addr) (s : State) : Host.Outcome State Fault Refusal :=
  .next (runMicro (jumpProgram (condJg s)) (s.loadOperand target))

/-- JGE (R266). -/
def execJge (target : Addr) (s : State) : Host.Outcome State Fault Refusal :=
  .next (runMicro (jumpProgram (condJge s)) (s.loadOperand target))

/-- JL (R267). -/
def execJl (target : Addr) (s : State) : Host.Outcome State Fault Refusal :=
  .next (runMicro (jumpProgram (condJl s)) (s.loadOperand target))

/-- JLE (R268). -/
def execJle (target : Addr) (s : State) : Host.Outcome State Fault Refusal :=
  .next (runMicro (jumpProgram (condJle s)) (s.loadOperand target))

end Sys2Proof.Machine
end

