-- ==== Sys2Proof/Machine/DeviceControl.lean ====
section
/-! DEFINITION. Device control (45_device_control.md R290 to R294): microprograms (40_datapath.md R190) and meanings. The
operand is any cell index; nothing checks that it names a device block (R290). -/

namespace Sys2Proof.Machine

/-- Row set: the OR with 0x80000000, synthesised by De Morgan. -/
def setProgram : List MicroInstr := [uArCr, uREAD, uBit31, uDrNor, uDrNotDr 0, uWRITE]

/-- Row unset: the AND with the complement of 0x80000000. -/
def unsetProgram : List MicroInstr := [uArCr, uREAD, uBit31, xfer mDR .and .id mDR .cpl mBR commPASS, uWRITE]

/-- Row check: the AND with 0x80000000, flags only. -/
def checkProgram : List MicroInstr :=
  [uArCr, uREAD, uBit31, xfer mNone .and .id mDR .id mBR (commPASS ||| gateNZ)]

/-- SET (R291). -/
def execSet (d : Addr) (s : State) : Host.Outcome State Fault Refusal := .next (runMicro setProgram (s.loadOperand d))

/-- UNSET (R292). -/
def execUnset (d : Addr) (s : State) : Host.Outcome State Fault Refusal :=
  .next (runMicro unsetProgram (s.loadOperand d))

/-- CHECK (R293). -/
def execCheck (d : Addr) (s : State) : Host.Outcome State Fault Refusal :=
  .next (runMicro checkProgram (s.loadOperand d))

end Sys2Proof.Machine
end

