-- ==== Sys2Proof/Machine/LoadStore.lean ====
section
/-! DEFINITION. Memory instructions (44_memory.md R280 to R282): microprograms (40_datapath.md R190) and meanings. -/

namespace Sys2Proof.Machine

/-- Row ld. -/
def ldProgram : List MicroInstr := readTop ++ [move mAR mDR commCUTB, uREAD, uArSp, uWRITE]

/-- Row st. -/
def stProgram : List MicroInstr :=
  readTop ++ [move mBR mDR commCUTB, uArSp1, uREAD, move mAR mBR commCUTB, uWRITE, uSpInc2]

/-- LD (R281). -/
def execLd (s : State) : Host.Outcome State Fault Refusal := .next (runMicro ldProgram s)

/-- ST (R282). -/
def execSt (s : State) : Host.Outcome State Fault Refusal := .next (runMicro stProgram s)

end Sys2Proof.Machine
end

