-- ==== Sys2Proof/Machine/StackMgmt.lean ====
section
/-! DEFINITION. Stack management (42_stack_management.md R230 to R240): microprograms (40_datapath.md R190) and meanings. -/

namespace Sys2Proof.Machine

/-- Row pop. -/
def popProgram : List MicroInstr := [uSpInc1]

/-- Row pushf. -/
def pushfProgram : List MicroInstr := [uSpDec, move mDR mSR commPASS, uWRITE]

/-- Row popf. -/
def popfProgram : List MicroInstr := readTop ++ [move mSR mDR commPASS, uSpInc1]

/-- Row inc. -/
def incProgram : List MicroInstr := unaryProgram [xfer mDR .add .id mDR .inc mNone (commPASS ||| gateNZVC)]

/-- Row dec. -/
def decProgram : List MicroInstr := unaryProgram [xfer mDR .add .id mDR .cpl mNone (commPASS ||| gateNZVC)]

/-- Row swap. -/
def swapProgram : List MicroInstr := readPair ++ [uArSp, uWRITE, uArSp1, uDrBr, uWRITE]

/-- Row dup. -/
def dupProgram : List MicroInstr := readTop ++ [uSpDec, uWRITE]

/-- Row push. -/
def pushProgram : List MicroInstr := [uSpDec, move mDR mCR commCUTB, uWRITE]

/-- Row call. -/
def callProgram : List MicroInstr := [uSpDec, move mDR mPC commPASS, uWRITE, uPcCr]

/-- Row ret. -/
def retProgram : List MicroInstr := readTop ++ [uPcDr, uSpInc1]

/-- POP (R231). -/
def execPop (s : State) : Host.Outcome State Fault Refusal := .next (runMicro popProgram s)

/-- PUSHF (R232). -/
def execPushf (s : State) : Host.Outcome State Fault Refusal := .next (runMicro pushfProgram s)

/-- POPF (R233). -/
def execPopf (s : State) : Host.Outcome State Fault Refusal := .next (runMicro popfProgram s)

/-- INC (R234). -/
def execInc (s : State) : Host.Outcome State Fault Refusal := .next (runMicro incProgram s)

/-- DEC (R235). -/
def execDec (s : State) : Host.Outcome State Fault Refusal := .next (runMicro decProgram s)

/-- SWAP (R236). -/
def execSwap (s : State) : Host.Outcome State Fault Refusal := .next (runMicro swapProgram s)

/-- DUP (R237). -/
def execDup (s : State) : Host.Outcome State Fault Refusal := .next (runMicro dupProgram s)

/-- PUSH (R238). -/
def execPush (imm : Addr) (s : State) : Host.Outcome State Fault Refusal :=
  .next (runMicro pushProgram (s.loadOperand imm))

/-- CALL (R239). -/
def execCall (target : Addr) (s : State) : Host.Outcome State Fault Refusal :=
  .next (runMicro callProgram (s.loadOperand target))

/-- RET (R240). -/
def execRet (s : State) : Host.Outcome State Fault Refusal := .next (runMicro retProgram s)

end Sys2Proof.Machine
end

