-- ==== Sys2Proof/Machine/Privileged.lean ====
section
/-! DEFINITION. The group the source calls privileged (46_privileged.md R300 to R305): microprograms (40_datapath.md R190) and
meanings. There is one mode and none of them checks it (R300, 60_exceptions.md R430). -/

namespace Sys2Proof.Machine

/-- Row nop: no microinstruction. -/
def nopProgram : List MicroInstr := []

/-- `SR <- PASS(AND(id(SR), cpl(BR)))`: the bit in BR cleared in SR. -/
def uSrClear : MicroInstr := xfer mSR .and .id mSR .cpl mBR commPASS

/-- Row halt. -/
def haltProgram : List MicroInstr := bit15Program ++ [uSrClear]

/-- Row ei: the bit in BR set in SR, by De Morgan through DR. -/
def eiProgram : List MicroInstr :=
  bit14Program ++ [xfer mDR .and .cpl mSR .cpl mBR commPASS, xfer mSR .add .cpl mDR .id mNone commPASS]

/-- Row di. -/
def diProgram : List MicroInstr := bit14Program ++ [uSrClear]

/-- Row iret: the popf sequence, then the ret sequence (R305). -/
def iretProgram : List MicroInstr := popfProgram ++ retProgram

/-- NOP (R301). -/
def execNop (s : State) : Host.Outcome State Fault Refusal := .next (runMicro nopProgram s)

/-- HALT (R302). -/
def execHalt (s : State) : Host.Outcome State Fault Refusal := .next (runMicro haltProgram s)

/-- EI (R303). -/
def execEi (s : State) : Host.Outcome State Fault Refusal := .next (runMicro eiProgram s)

/-- DI (R304). -/
def execDi (s : State) : Host.Outcome State Fault Refusal := .next (runMicro diProgram s)

/-- IRET (R305). -/
def execIret (s : State) : Host.Outcome State Fault Refusal := .next (runMicro iretProgram s)

end Sys2Proof.Machine
end

