-- ==== Sys2Proof/Machine/StackArith.lean ====
section
/-! DEFINITION. Stack arithmetic (41_stack_arithmetic.md R200 to R213): each instruction's microprogram, a row of
40_datapath.md R190, and its meaning, the microprogram run on the data path. -/

namespace Sys2Proof.Machine

/-- Row add. -/
def addProgram : List MicroInstr := binaryProgram [combine .add .id gateNZVC]

/-- Row sub. -/
def subProgram : List MicroInstr := binaryProgram [combine .add .neg gateNZVC]

/-- Row mul. -/
def mulProgram : List MicroInstr := binaryProgram [combine .mul .id gateNZVC]

/-- Row div. -/
def divProgram : List MicroInstr := binaryProgram [combine .div .id gateNZVC]

/-- Row and. -/
def andProgram : List MicroInstr := binaryProgram [combine .and .id gateNZ]

/-- Row or. -/
def orProgram : List MicroInstr := binaryProgram [uDrNor, uDrNotDr gateNZ]

/-- Row not. -/
def notProgram : List MicroInstr := unaryProgram [uDrNotDr gateNZ]

/-- Row neg. -/
def negProgram : List MicroInstr := unaryProgram [xfer mDR .add .neg mDR .id mNone (commPASS ||| gateNZVC)]

/-- Row shl. -/
def shlProgram (f : ShiftFlags) : List MicroInstr := unaryProgram (shiftCompute commSHL f)

/-- Row shr. -/
def shrProgram (f : ShiftFlags) : List MicroInstr := unaryProgram (shiftCompute commSHR f)

/-- Row rol. -/
def rolProgram (f : ShiftFlags) : List MicroInstr := unaryProgram (shiftCompute commROL f)

/-- Row ror. -/
def rorProgram (f : ShiftFlags) : List MicroInstr := unaryProgram (shiftCompute commROR f)

/-- Row cmp: the transfer of `sub` with no target. -/
def cmpProgram : List MicroInstr := readPair ++ [xfer mNone .add .id mDR .neg mBR (commPASS ||| gateNZVC)]

/-- ADD (R201). -/
def execAdd (s : State) : Host.Outcome State Fault Refusal := .next (runMicro addProgram s)

/-- SUB (R202). -/
def execSub (s : State) : Host.Outcome State Fault Refusal := .next (runMicro subProgram s)

/-- MUL (R203). -/
def execMul (s : State) : Host.Outcome State Fault Refusal := .next (runMicro mulProgram s)

/-- DIV (R204). With TOS = 0 it takes DIVISION_BY_ZERO (60_exceptions.md R402): the next state has the fault status set. -/
def execDiv (s : State) : Host.Outcome State Fault Refusal := .next (runMicro divProgram s)

/-- AND (R205). -/
def execAnd (s : State) : Host.Outcome State Fault Refusal := .next (runMicro andProgram s)

/-- OR (R206). -/
def execOr (s : State) : Host.Outcome State Fault Refusal := .next (runMicro orProgram s)

/-- NOT (R207). -/
def execNot (s : State) : Host.Outcome State Fault Refusal := .next (runMicro notProgram s)

/-- NEG (R208). -/
def execNeg (s : State) : Host.Outcome State Fault Refusal := .next (runMicro negProgram s)

/-- SHL (R209). -/
def execShl (s : State) : Host.Outcome State Fault Refusal := .next (runMicro (shlProgram s.shiftFlags) s)

/-- SHR (R210). -/
def execShr (s : State) : Host.Outcome State Fault Refusal := .next (runMicro (shrProgram s.shiftFlags) s)

/-- ROL (R211). -/
def execRol (s : State) : Host.Outcome State Fault Refusal := .next (runMicro (rolProgram s.shiftFlags) s)

/-- ROR (R212). -/
def execRor (s : State) : Host.Outcome State Fault Refusal := .next (runMicro (rorProgram s.shiftFlags) s)

/-- CMP (R213). -/
def execCmp (s : State) : Host.Outcome State Fault Refusal := .next (runMicro cmpProgram s)

end Sys2Proof.Machine
end

