-- ==== Sys2Proof/Machine/Dispatch.lean ====
section
/-! DEFINITION. The EXECUTE phase of every instruction: one arm per constructor of Instr (40_datapath.md R187). -/

namespace Sys2Proof.Machine

def exec (i : Instr) (s : State) : Host.Outcome State Fault Refusal :=
  match i with
  -- stack arithmetic (41_stack_arithmetic.md)
  | .add => Sys2Proof.Machine.execAdd s
  | .sub => Sys2Proof.Machine.execSub s
  | .mul => Sys2Proof.Machine.execMul s
  | .div => Sys2Proof.Machine.execDiv s
  | .and => Sys2Proof.Machine.execAnd s
  | .or => Sys2Proof.Machine.execOr s
  | .not => Sys2Proof.Machine.execNot s
  | .neg => Sys2Proof.Machine.execNeg s
  | .shl => Sys2Proof.Machine.execShl s
  | .shr => Sys2Proof.Machine.execShr s
  | .rol => Sys2Proof.Machine.execRol s
  | .ror => Sys2Proof.Machine.execRor s
  | .cmp => Sys2Proof.Machine.execCmp s
  -- stack management (42_stack_management.md)
  | .pop => Sys2Proof.Machine.execPop s
  | .pushf => Sys2Proof.Machine.execPushf s
  | .popf => Sys2Proof.Machine.execPopf s
  | .inc => Sys2Proof.Machine.execInc s
  | .dec => Sys2Proof.Machine.execDec s
  | .swap => Sys2Proof.Machine.execSwap s
  | .dup => Sys2Proof.Machine.execDup s
  | .ret => Sys2Proof.Machine.execRet s
  | .push imm => Sys2Proof.Machine.execPush imm s
  | .call target => Sys2Proof.Machine.execCall target s
  -- control flow (43_control_flow.md)
  | .jmp target => Sys2Proof.Machine.execJmp target s
  | .jz target => Sys2Proof.Machine.execJz target s
  | .je target => Sys2Proof.Machine.execJe target s
  | .jnz target => Sys2Proof.Machine.execJnz target s
  | .jg target => Sys2Proof.Machine.execJg target s
  | .jge target => Sys2Proof.Machine.execJge target s
  | .jl target => Sys2Proof.Machine.execJl target s
  | .jle target => Sys2Proof.Machine.execJle target s
  -- memory (44_memory.md)
  | .ld => Sys2Proof.Machine.execLd s
  | .st => Sys2Proof.Machine.execSt s
  -- device control (45_device_control.md)
  | .set d => Sys2Proof.Machine.execSet d s
  | .unset d => Sys2Proof.Machine.execUnset d s
  | .check d => Sys2Proof.Machine.execCheck d s
  -- the privileged group (46_privileged.md)
  | .nop => Sys2Proof.Machine.execNop s
  | .halt => Sys2Proof.Machine.execHalt s
  | .ei => Sys2Proof.Machine.execEi s
  | .di => Sys2Proof.Machine.execDi s
  | .iret => Sys2Proof.Machine.execIret s

end Sys2Proof.Machine
end

