-- ==== Sys2Proof/Machine/Step.lean ====
section
/-! DEFINITION. One step: one whole cycle of the control unit, FETCH, DECODE, EXECUTE, DEVICE-POLL (40_datapath.md R183). -/

namespace Sys2Proof.Machine

/-- One instruction. A word that decodes to none takes UNKNOWN_OPCODE (60_exceptions.md R405): the next state has the fault
status set, and the step after it stops. A run that has ended stops (log 2, 3, 4). -/
def step (s : State) : Host.Outcome State Fault Refusal :=
  match runEnded s with
  | some f => .fault f
  | none =>
    match decodeWith s.fetch.opcodeMap s.fetch.cr with
    | .error _ => .next (s.fetch.raiseFault .unknownOpcode)
    | .ok i => afterExecute (exec i s.fetch.enterExecute)

/-- The state with the instruction word `w` (its low `nbits` bits) in the cell FETCH reads next. It stands for the load of a
one-word image at the entry address (log 7). -/
def State.withFetchWord (s : State) (nbits w : Nat) : State := storeAtPc s (BitVec.ofNat 32 (w % 2 ^ nbits))

end Sys2Proof.Machine
end

