-- ==== Sys2Proof/Syntax/Source.lean ====
section
/-! DEFINITION. The assembler's source language: its tokens and statement nodes, the cells of an image, and the errors of the
assembler and the loader (30_encoding.md R111, R113, R130, R131; 70_reset_and_hazards.md R459). A text is a list of
characters. -/

namespace Sys2Proof

/-- The five directives (R111). -/
inductive Directive where
  | byte | char | str | res | addr
deriving DecidableEq, Repr

/-- An OPCODE token's word (R111). -/
inductive Keyword where
  | instr (m : Mnemonic)
  | directive (d : Directive)
deriving DecidableEq, Repr

/-- The token kinds (R111). -/
inductive Token where
  | number (v : Int)
  | char (code : Nat)
  | str (codes : List Nat)
  | label (name : List Char)
  | section_
  | opcode (k : Keyword)
  | ident (name : List Char)
  | comma
  | newline
deriving DecidableEq, Repr

/-- What the lexer delivers at a line: a token, or the point where it fails (R112). -/
inductive Lexeme where
  | tok (t : Token) (line : Nat)
  | bad (line : Nat)
deriving DecidableEq, Repr

/-- The three sections (R113). -/
inductive SectionKind where
  | text | data | devices
deriving DecidableEq, Repr

/-- An operand: a single token (R113, R133). -/
inductive Operand where
  | number (v : Int)
  | char (code : Nat)
  | str (codes : List Nat)
  | ident (name : List Char)
deriving DecidableEq, Repr

/-- A statement node, with its line (R113). -/
inductive Node where
  | mark (k : SectionKind) (line : Nat)
  | label (name : List Char) (line : Nat)
  | stmt (k : Keyword) (operands : List Operand) (line : Nat)
deriving DecidableEq, Repr

/-- Where the parser stands inside a line (R113). -/
inductive ParseState where
  /-- Labels or a statement may come, or the line may end. -/
  | lineStart
  /-- After `.section`, at the given line: its name must come. -/
  | afterSection (line : Nat)
  /-- After an OPCODE: an operand may come, or the line may end. -/
  | afterOpcode (k : Keyword) (line : Nat)
  /-- After an operand: a comma may come, or the line may end. -/
  | afterOperand (k : Keyword) (operands : List Operand) (line : Nat)
  /-- After a comma: an operand must come. -/
  | afterComma (k : Keyword) (operands : List Operand) (line : Nat)
  /-- After a section marker: the line must end. -/
  | lineEnd
deriving DecidableEq, Repr

/-- A declared label: its name, its section and its line (R116). -/
structure LabelDecl where
  name : List Char
  sec : SectionKind
  line : Nat
deriving DecidableEq, Repr

/-- A checked statement or label of a text or data section (R117). -/
inductive Item where
  | label (name : List Char)
  | instr (m : Mnemonic) (operand : Option Operand) (line : Nat)
  /-- `byte`, `char` or `str`: the bytes in order. -/
  | bytes (d : Directive) (bs : List Byte) (line : Nat)
  /-- `res n`. -/
  | res (n : Nat) (line : Nat)
deriving DecidableEq, Repr

/-- A device initialisation being read: the device, its line, and the operands of its directives so far, at most four
(R119). -/
structure DeviceInit where
  number : Fin 16
  line : Nat
  fields : List Operand
deriving DecidableEq, Repr

/-- A program that passed the semantic checks, its parts in source order. -/
structure Program where
  labels : List LabelDecl
  data : List Item
  text : List Item
  devices : List DeviceInit
  /-- The lines of the `.section devices` markers. -/
  deviceSections : List Nat
deriving DecidableEq, Repr

/-- The assembler's error names (00_scope.md R19). -/
inductive AsmErrorKind where
  /-- `LexicalError` (R112). -/
  | lexical
  /-- `SyntaxError` (R114). -/
  | syntaxError
  /-- `SemanticError` (R115 to R119). -/
  | semantic
  /-- `DuplicateLabel`, a SemanticError of its own name (R116). -/
  | duplicateLabel
  /-- `GenerationError` (R129). -/
  | generation
deriving DecidableEq, Repr

/-- An assembler error: its kind, the offending line, and the offending token where there is one (R130, log 18). -/
structure AsmError where
  kind : AsmErrorKind
  line : Nat
  token : Option Token
deriving DecidableEq, Repr

/-- One line of the listing: one memory cell (R131). -/
structure ListingLine where
  /-- The cell index, below 2^24. -/
  addr : Nat
  /-- The mark: `>` for the entry cell, `:` otherwise. -/
  entry : Bool
  value : Word
  /-- The labels of the trailing comment. -/
  labels : List (List Char)
deriving DecidableEq, Repr

/-- The loader's errors, with the line number where there is one (70_reset_and_hazards.md R459, log 20). -/
inductive LoadError where
  /-- A line that does not match R458. -/
  | malformed (line : Nat)
  /-- A line whose address an earlier line already named. -/
  | duplicateAddress (line : Nat)
  /-- A second `>` line. -/
  | secondEntry (line : Nat)
  /-- No `>` line. -/
  | noEntry
deriving DecidableEq, Repr

end Sys2Proof
end

