-- ==== Sys2Proof/Machine/Lexer.lean ====
section
/-! DEFINITION. The assembler's lexer (30_encoding.md R110 to R112). -/

namespace Sys2Proof.Machine

/-! ## Characters -/

/-- LF or CR (R110). -/
def isBreak (c : Char) : Bool := c == '\n' || c == '\r'

/-- Space or tab: separates tokens, produces none (R110). -/
def isBlank (c : Char) : Bool := c == ' ' || c == '\t'

/-- The value of a decimal digit. -/
def decDigit (c : Char) : Option Nat :=
  if 48 ≤ c.toNat ∧ c.toNat ≤ 57 then some (c.toNat - 48) else none

/-- The value of a hexadecimal digit, either case. -/
def hexDigit (c : Char) : Option Nat :=
  if 48 ≤ c.toNat ∧ c.toNat ≤ 57 then some (c.toNat - 48)
  else if 65 ≤ c.toNat ∧ c.toNat ≤ 70 then some (c.toNat - 55)
  else if 97 ≤ c.toNat ∧ c.toNat ≤ 102 then some (c.toNat - 87)
  else none

/-- The value of a binary digit. -/
def binDigit (c : Char) : Option Nat := if c == '0' then some 0 else if c == '1' then some 1 else none

/-- `[A-Za-z_]` (R111). -/
def identStart (c : Char) : Bool :=
  (65 ≤ c.toNat && c.toNat ≤ 90) || (97 ≤ c.toNat && c.toNat ≤ 122) || c == '_'

/-- `[A-Za-z0-9_]` (R111). -/
def identPart (c : Char) : Bool := identStart c || (decDigit c).isSome

/-! ## Reserved words (R111) -/

/-- The spelling of a mnemonic (R86). -/
def mnemonicSpelling (m : Mnemonic) : List Char :=
  match m with
  | .nop => "nop".toList
  | .halt => "halt".toList
  | .add => "add".toList
  | .sub => "sub".toList
  | .mul => "mul".toList
  | .div => "div".toList
  | .and => "and".toList
  | .or => "or".toList
  | .not => "not".toList
  | .neg => "neg".toList
  | .shl => "shl".toList
  | .shr => "shr".toList
  | .rol => "rol".toList
  | .ror => "ror".toList
  | .cmp => "cmp".toList
  | .pop => "pop".toList
  | .pushf => "pushf".toList
  | .popf => "popf".toList
  | .inc => "inc".toList
  | .dec => "dec".toList
  | .swap => "swap".toList
  | .dup => "dup".toList
  | .ret => "ret".toList
  | .ld => "ld".toList
  | .st => "st".toList
  | .ei => "ei".toList
  | .di => "di".toList
  | .iret => "iret".toList
  | .push => "push".toList
  | .call => "call".toList
  | .jmp => "jmp".toList
  | .jz => "jz".toList
  | .je => "je".toList
  | .jnz => "jnz".toList
  | .jg => "jg".toList
  | .jge => "jge".toList
  | .jl => "jl".toList
  | .jle => "jle".toList
  | .set => "set".toList
  | .unset => "unset".toList
  | .check => "check".toList

/-- The spelling of a directive (R111). -/
def directiveSpelling : Directive → List Char
  | .byte => "byte".toList
  | .char => "char".toList
  | .str => "str".toList
  | .res => "res".toList
  | .addr => "addr".toList

/-- The OPCODE words and what each stands for (R111). -/
def reservedWords : List (List Char × Keyword) :=
  Mnemonic.all.map (fun m => (mnemonicSpelling m, Keyword.instr m)) ++
  [Directive.byte, .char, .str, .res, .addr].map (fun d => (directiveSpelling d, Keyword.directive d))

/-- The OPCODE word an identifier is, if it is one. -/
def reservedWord (name : List Char) : Option Keyword :=
  (reservedWords.find? (fun e => e.1 == name)).map (·.2)

/-! ## Tokens (R111) -/

/-- The longest run of digits at the front, as a number with its rest; none if there is no digit. -/
def lexDigits (digit : Char → Option Nat) (base : Nat) (cs : List Char) : Option (Nat × List Char) :=
  let ds := cs.takeWhile (fun c => (digit c).isSome)
  if ds.isEmpty then none
  else some (ds.foldl (fun v c => v * base + (digit c).getD 0) 0, cs.dropWhile (fun c => (digit c).isSome))

/-- NUMBER without its sign: `0x` and hex digits, `0b` and binary digits, or decimal digits. -/
def lexUnsigned (cs : List Char) : Option (Nat × List Char) :=
  match cs with
  | a :: b :: rest =>
    if a = '0' ∧ b = 'x' then lexDigits hexDigit 16 rest
    else if a = '0' ∧ b = 'b' then lexDigits binDigit 2 rest
    else lexDigits decDigit 10 cs
  | _ => lexDigits decDigit 10 cs

/-- CHAR after its opening quote: one character, not a quote, not a line break, and a closing quote. -/
def lexChar (cs : List Char) : Option (Token × List Char) :=
  match cs with
  | x :: q :: rest => if x ≠ '\'' ∧ isBreak x = false ∧ q = '\'' then some (.char x.toNat, rest) else none
  | _ => none

/-- STRING after its opening quote: characters other than a quote or a line break, and a closing quote. -/
def lexString (cs : List Char) : Option (Token × List Char) :=
  let inside := cs.takeWhile (fun c => c ≠ '"' && !isBreak c)
  match cs.dropWhile (fun c => c ≠ '"' && !isBreak c) with
  | q :: rest => if q = '"' then some (.str (inside.map Char.toNat), rest) else none
  | [] => none

/-- An identifier's run of characters: a LABEL when a colon follows at once and it is no reserved word, else an OPCODE or an
IDENT. -/
def lexWord (cs : List Char) : Token × List Char :=
  let name := cs.takeWhile identPart
  let rest := cs.dropWhile identPart
  match reservedWord name with
  | some k => (.opcode k, rest)
  | none =>
    match rest with
    | c :: rest' => if c = ':' then (.label name, rest') else (.ident name, rest)
    | [] => (.ident name, rest)

/-- SECTION after its dot: the run of identifier characters must be `section` (log 16). -/
def lexSection (cs : List Char) : Option (Token × List Char) :=
  if cs.takeWhile identPart = "section".toList then some (.section_, cs.dropWhile identPart) else none

/-- One token from its first character `c` and what follows; none where no token can begin or continue (R112). -/
def lexToken (c : Char) (cs : List Char) : Option (Token × List Char) :=
  if c = ',' then some (.comma, cs)
  else if c = '\'' then lexChar cs
  else if c = '"' then lexString cs
  else if c = '.' then lexSection cs
  else if c = '-' then (lexUnsigned cs).map (fun r => (.number (-(r.1 : Int)), r.2))
  else if (decDigit c).isSome then (lexUnsigned (c :: cs)).map (fun r => (.number (r.1 : Int), r.2))
  else if identStart c then some (lexWord (c :: cs))
  else none

/-- The rest after a CR: the LF of a CR LF belongs to the same line break (R110). -/
def dropLF : List Char → List Char
  | [] => []
  | c :: cs => if c = '\n' then cs else c :: cs

/-- The lexemes of a text from a line on, in order, ending at the first failure. The fuel is one more than the text is long. -/
def lexFrom : Nat → Nat → List Char → List Lexeme
  | 0, _, _ => []
  | _ + 1, _, [] => []
  | fuel + 1, line, c :: cs =>
    if isBlank c then lexFrom fuel line cs
    else if c = '\n' then .tok .newline line :: lexFrom fuel (line + 1) cs
    else if c = '\r' then .tok .newline line :: lexFrom fuel (line + 1) (dropLF cs)
    else if c = ';' then lexFrom fuel line (cs.dropWhile (fun x => !isBreak x))
    else
      match lexToken c cs with
      | some (t, rest) => .tok t line :: lexFrom fuel line rest
      | none => [.bad line]

/-- The lexer (R111), lines numbered from 1 (R110). -/
def lex (src : List Char) : List Lexeme := lexFrom (src.length + 1) 1 src

end Sys2Proof.Machine
end

