-- ==== Sys2Proof/Machine/Parser.lean ====
section
/-! DEFINITION. The assembler's syntax analyser (30_encoding.md R113, R114): a single pass that stops at the first lexical or
syntax error. -/

namespace Sys2Proof.Machine

/-- A `SyntaxError` at a token (R114). -/
def syntaxErrorAt (t : Token) (line : Nat) : AsmError := { kind := .syntaxError, line := line, token := some t }

/-- A section marker's name (R113). -/
def sectionKind (name : List Char) : Option SectionKind :=
  if name = "text".toList then some .text
  else if name = "data".toList then some .data
  else if name = "devices".toList then some .devices
  else none

/-- The operand a token is, if it is one (R113). -/
def tokenOperand : Token → Option Operand
  | .number v => some (.number v)
  | .char c => some (.char c)
  | .str cs => some (.str cs)
  | .ident n => some (.ident n)
  | .label _ | .section_ | .opcode _ | .comma | .newline => none

/-- One token: the parser's next state and the node it completes, if any (R113). -/
def parseToken (st : ParseState) (t : Token) (line : Nat) : Except AsmError (ParseState × Option Node) :=
  match st with
  | .lineStart =>
    match t with
    | .newline => .ok (.lineStart, none)
    | .label n => .ok (.lineStart, some (.label n line))
    | .section_ => .ok (.afterSection line, none)
    | .opcode k => .ok (.afterOpcode k line, none)
    | .number _ | .char _ | .str _ | .ident _ | .comma => .error (syntaxErrorAt t line)
  | .afterSection l =>
    match t with
    | .ident n =>
      match sectionKind n with
      | some k => .ok (.lineEnd, some (.mark k l))
      | none => .error (syntaxErrorAt t line)
    | _ => .error (syntaxErrorAt t line)
  | .afterOpcode k l =>
    match t with
    | .newline => .ok (.lineStart, some (.stmt k [] l))
    | _ =>
      match tokenOperand t with
      | some o => .ok (.afterOperand k [o] l, none)
      | none => .error (syntaxErrorAt t line)
  | .afterOperand k os l =>
    match t with
    | .newline => .ok (.lineStart, some (.stmt k os l))
    | .comma => .ok (.afterComma k os l, none)
    | _ => .error (syntaxErrorAt t line)
  | .afterComma k os l =>
    match tokenOperand t with
    | some o => .ok (.afterOperand k (os ++ [o]) l, none)
    | none => .error (syntaxErrorAt t line)
  | .lineEnd =>
    match t with
    | .newline => .ok (.lineStart, none)
    | _ => .error (syntaxErrorAt t line)

/-- The end of the text, where the last line may end (R113). DESIGN CHOICE: a statement that the end cuts short reports its last
token (log 18). -/
def parseEnd : ParseState → Except AsmError (List Node)
  | .lineStart | .lineEnd => .ok []
  | .afterOpcode k l => .ok [.stmt k [] l]
  | .afterOperand k os l => .ok [.stmt k os l]
  | .afterSection l => .error (syntaxErrorAt .section_ l)
  | .afterComma _ _ l => .error (syntaxErrorAt .comma l)

/-- The nodes of a lexeme sequence, or the first error in text order (R114). -/
def parseFrom : ParseState → List Lexeme → Except AsmError (List Node)
  | st, [] => parseEnd st
  | _, .bad line :: _ => .error { kind := .lexical, line := line, token := none }
  | st, .tok t line :: rest =>
    match parseToken st t line with
    | .error e => .error e
    | .ok (st', node) =>
      match parseFrom st' rest with
      | .error e => .error e
      | .ok nodes => .ok (node.toList ++ nodes)

/-- The syntax analyser. -/
def parse (src : List Char) : Except AsmError (List Node) := parseFrom .lineStart (lex src)

end Sys2Proof.Machine
end

