-- ==== Sys2Proof/Machine/Semantics.lean ====
section
/-! DEFINITION. The assembler's semantic analyser (30_encoding.md R115 to R119): pass 1 collects the labels, pass 2 checks each
statement and gives the program in its sections. -/

namespace Sys2Proof.Machine

/-- A `SemanticError` at a line. -/
def semanticError (line : Nat) (t : Option Token) : AsmError := { kind := .semantic, line := line, token := t }

/-! ## Device names (R118) -/

/-- The spelling of a device number in decimal digits. -/
def decimalName (n : Nat) : List Char :=
  if n < 10 then [Char.ofNat (48 + n)] else [Char.ofNat (48 + n / 10), Char.ofNat (48 + n % 10)]

/-- `devN` (R118). -/
def deviceName (n : Fin 16) : List Char := "dev".toList ++ decimalName n.val

/-- The device a reserved device name stands for (R118). -/
def deviceNumber (name : List Char) : Option (Fin 16) := (List.finRange 16).find? (fun n => deviceName n == name)

/-! ## Pass 1: labels (R115, R116) -/

/-- The labels of the text and data sections in declaration order, or the first error in node order. DESIGN CHOICE: a label or
statement before the first section marker is rejected here, in pass 1 (log 24); a label in a devices section takes no part in
the check for repeats (log 25). -/
def collectLabels : Option SectionKind → List LabelDecl → List Node → Except AsmError (List LabelDecl)
  | _, seen, [] => .ok seen
  | _, seen, .mark k _ :: rest => collectLabels (some k) seen rest
  | sec, seen, .label n l :: rest =>
    match sec with
    | none => .error (semanticError l (some (.label n)))
    | some .devices => collectLabels sec seen rest
    | some k =>
      if (deviceNumber n).isSome then .error (semanticError l (some (.label n)))
      else if seen.any (fun d => d.name == n) then
        .error { kind := .duplicateLabel, line := l, token := some (.label n) }
      else collectLabels sec (seen ++ [{ name := n, sec := k, line := l }]) rest
  | sec, seen, .stmt k _ l :: rest =>
    match sec with
    | none => .error (semanticError l (some (.opcode k)))
    | some _ => collectLabels sec seen rest

/-- The entry label (R116). -/
def startName : List Char := "start".toList

/-- An instruction follows the label `start` in the text sections (R116; log 17). -/
def startFollowed : Bool → Option SectionKind → List Node → Bool
  | _, _, [] => false
  | after, _, .mark k _ :: rest => startFollowed after (some k) rest
  | after, sec, .label n _ :: rest =>
    startFollowed (after || (n == startName && sec == some .text)) sec rest
  | after, sec, .stmt _ _ _ :: rest => (after && sec == some .text) || startFollowed after sec rest

/-- `start` is declared, in a text section, and an instruction follows it there (R116). -/
def checkStart (labels : List LabelDecl) (nodes : List Node) : Except AsmError Unit :=
  match labels.find? (fun d => d.name == startName) with
  | none => .error (semanticError 0 none)
  | some d =>
    if d.sec = .text ∧ startFollowed false none nodes = true then .ok ()
    else .error (semanticError d.line (some (.label d.name)))

/-! ## Pass 2: statements (R117, R119) -/

/-- A byte operand: NUMBER in 0..255 or CHAR with code 0..255. -/
def byteOperand : Operand → Option Byte
  | .number v => if 0 ≤ v ∧ v ≤ 255 then some (BitVec.ofInt 8 v) else none
  | .char c => if c ≤ 255 then some (BitVec.ofNat 8 c) else none
  | .str _ | .ident _ => none

/-- A `char` operand: CHAR with code 0..255. -/
def charOperand : Operand → Option Byte
  | .char c => if c ≤ 255 then some (BitVec.ofNat 8 c) else none
  | .number _ | .str _ | .ident _ => none

/-- A code of a `str` operand: 0..255. -/
def codeByte (c : Nat) : Option Byte := if c ≤ 255 then some (BitVec.ofNat 8 c) else none

/-- Every element's value, if all have one. -/
def allSome {α β : Type} (f : α → Option β) : List α → Option (List β)
  | [] => some []
  | a :: rest =>
    match f a, allSome f rest with
    | some b, some bs => some (b :: bs)
    | _, _ => none

/-- The name of a declared label. -/
def isLabel (labels : List LabelDecl) (n : List Char) : Bool := labels.any (fun d => d.name == n)

/-- An operand of a format A instruction: NUMBER, CHAR, or IDENT naming a label or a reserved device name. -/
def instrOperand (labels : List LabelDecl) : Operand → Bool
  | .number _ | .char _ => true
  | .ident n => isLabel labels n || (deviceNumber n).isSome
  | .str _ => false

/-- A statement of a text section: one of the 41 mnemonics, with its operands (R117). -/
def checkText (labels : List LabelDecl) (k : Keyword) (ops : List Operand) (line : Nat) : Option Item :=
  match k with
  | .directive _ => none
  | .instr m =>
    match m.format, ops with
    | .n, [] => some (.instr m none line)
    | .a, [o] => if instrOperand labels o then some (.instr m (some o) line) else none
    | _, _ => none

/-- A statement of a data section (R117). -/
def checkData (k : Keyword) (ops : List Operand) (line : Nat) : Option Item :=
  match k with
  | .instr _ => none
  | .directive .byte => if ops.isEmpty then none else (allSome byteOperand ops).map (fun bs => .bytes .byte bs line)
  | .directive .char => if ops.isEmpty then none else (allSome charOperand ops).map (fun bs => .bytes .char bs line)
  | .directive .str =>
    match ops with
    | [.str cs] => if cs.isEmpty then none else (allSome codeByte cs).map (fun bs => .bytes .str bs line)
    | _ => none
  | .directive .res =>
    match ops with
    | [.number v] => if 1 ≤ v then some (.res v.toNat line) else none
    | _ => none
  | .directive .addr => none

/-- An `addr` operand: IDENT naming a label, or NUMBER in 0..0xFFFFFF (R117). -/
def addrOperand (labels : List LabelDecl) : Operand → Bool
  | .number v => decide (0 ≤ v ∧ v ≤ 0xFFFFFF)
  | .ident n => isLabel labels n
  | .char _ | .str _ => false

/-- The next directive of a device initialisation: `byte`, `addr`, `byte`, `addr`, the last not 0 (R119). -/
def deviceField (labels : List LabelDecl) (d : DeviceInit) (k : Keyword) (ops : List Operand) : Option DeviceInit :=
  match ops with
  | [o] =>
    let fits : Bool :=
      match d.fields.length with
      | 0 | 2 => k == .directive .byte && (byteOperand o).isSome
      | 1 => k == .directive .addr && addrOperand labels o
      | 3 => k == .directive .addr && addrOperand labels o && o != .number 0
      | _ => false
    if fits then some { d with fields := d.fields ++ [o] } else none
  | _ => none

/-- The initialisation being read, if any, is whole: all four directives (R119). -/
def deviceWhole : Option DeviceInit → Except AsmError (List DeviceInit)
  | none => .ok []
  | some d =>
    if d.fields.length = 4 then .ok [d] else .error (semanticError d.line (some (.label (deviceName d.number))))

/-- The program so far with an item added in its section. -/
def addItem (p : Program) (sec : SectionKind) (i : Item) : Program :=
  match sec with
  | .text => { p with text := p.text ++ [i] }
  | .data => { p with data := p.data ++ [i] }
  | .devices => p

/-- Pass 2, in statement order: the section, the device initialisation being read, and the program so far (R117, R119). DESIGN
CHOICE: an error of a statement reports the statement's OPCODE as its token, whichever operand is at fault (log 18). -/
def checkNodes (labels : List LabelDecl) :
    Option SectionKind → Option DeviceInit → Program → List Node → Except AsmError Program
  | _, cur, p, [] =>
    match deviceWhole cur with
    | .error e => .error e
    | .ok ds => .ok { p with devices := p.devices ++ ds }
  | _, cur, p, .mark k l :: rest =>
    match deviceWhole cur with
    | .error e => .error e
    | .ok ds =>
      checkNodes labels (some k) none
        { p with
          devices := p.devices ++ ds
          deviceSections := if k = .devices then p.deviceSections ++ [l] else p.deviceSections } rest
  | sec, cur, p, .label n l :: rest =>
    match sec with
    | some .devices =>
      match deviceWhole cur, deviceNumber n with
      | .error e, _ => .error e
      | .ok _, none => .error (semanticError l (some (.label n)))
      | .ok ds, some d =>
        checkNodes labels sec (some { number := d, line := l, fields := [] }) { p with devices := p.devices ++ ds } rest
    | some k => checkNodes labels sec cur (addItem p k (.label n)) rest
    | none => .error (semanticError l (some (.label n)))
  | sec, cur, p, .stmt k ops l :: rest =>
    match sec with
    | none => .error (semanticError l (some (.opcode k)))
    | some .devices =>
      match cur.bind (fun d => deviceField labels d k ops) with
      | some d => checkNodes labels sec (some d) p rest
      | none => .error (semanticError l (some (.opcode k)))
    | some .text =>
      match checkText labels k ops l with
      | some i => checkNodes labels sec cur (addItem p .text i) rest
      | none => .error (semanticError l (some (.opcode k)))
    | some .data =>
      match checkData k ops l with
      | some i => checkNodes labels sec cur (addItem p .data i) rest
      | none => .error (semanticError l (some (.opcode k)))

/-- The semantic analyser: pass 1, then pass 2 (R130). -/
def analyse (nodes : List Node) : Except AsmError Program :=
  match collectLabels none [] nodes with
  | .error e => .error e
  | .ok labels =>
    match checkStart labels nodes with
    | .error e => .error e
    | .ok () =>
      checkNodes labels none none { labels := labels, data := [], text := [], devices := [], deviceSections := [] } nodes

end Sys2Proof.Machine
end

