-- ==== Sys2Proof/Machine/CodeGen.lean ====
section
/-! DEFINITION. The assembler's code generator and the listing it writes (30_encoding.md R125 to R134). -/

namespace Sys2Proof.Machine

/-- A `GenerationError` at a line and a token (R129, R130). -/
def generationError (line : Nat) (t : Token) : AsmError := { kind := .generation, line := line, token := some t }

/-! ## Layout (R125, R126) -/

/-- The first cell after the device blocks, where the data section starts (R125). -/
def imageBase : Nat := 0x20

/-- How many cells an item takes (R125, R126). -/
def itemCells : Item → Nat
  | .label _ => 0
  | .instr _ _ _ => 1
  | .bytes _ bs _ => (bs.length + 3) / 4
  | .res n _ => n

/-- The line of an item; a label takes no cell and needs none. -/
def itemLine : Item → Nat
  | .label _ => 0
  | .instr _ _ l | .bytes _ _ l | .res _ l => l

/-- The token an item begins with. -/
def itemToken : Item → Token
  | .label n => .label n
  | .instr m _ _ => .opcode (.instr m)
  | .bytes d _ _ => .opcode (.directive d)
  | .res _ _ => .opcode (.directive .res)

/-- The address each label binds, from a first address on: that of the next cell (R116, R125, R126). -/
def bindLabels : Nat → List Item → List (List Char × Nat)
  | _, [] => []
  | a, .label n :: rest => (n, a) :: bindLabels a rest
  | a, .instr _ _ _ :: rest => bindLabels (a + 1) rest
  | a, .bytes _ bs _ :: rest => bindLabels (a + (bs.length + 3) / 4) rest
  | a, .res n _ :: rest => bindLabels (a + n) rest

/-- The first item whose cells would lie at or beyond 2^24 (R129). -/
def overflowItem : Nat → List Item → Option Item
  | _, [] => none
  | a, i :: rest =>
    if itemCells i ≠ 0 ∧ cellCount < a + itemCells i then some i else overflowItem (a + itemCells i) rest

/-! ## Encoding (R127, R128) -/

/-- The value of an operand: the number, the character's code, the label's address, or 2N for `devN` (R127). -/
def operandValue (syms : List (List Char × Nat)) : Operand → Int
  | .number v => v
  | .char c => c
  | .str _ => 0
  | .ident n =>
    match syms.find? (fun e => e.1 == n) with
    | some e => e.2
    | none => match deviceNumber n with | some d => (2 * d.val : Nat) | none => 0

/-- The 24-bit field of an operand: its value modulo 2^24 (R85). -/
def operandBits (syms : List (List Char × Nat)) (o : Operand) : Addr := BitVec.ofInt 24 (operandValue syms o)

/-- The cells of an item (R125, R127). -/
def itemWords (map : OpcodeMap) (syms : List (List Char × Nat)) : Item → List Word
  | .label _ => []
  | .instr m o _ =>
    [encodeWith map (m.toInstr (match o with | some x => operandBits syms x | none => 0))]
  | .bytes _ bs _ => packBytes bs
  | .res n _ => List.replicate n 0

/-- Items' cells at rising addresses. -/
def emitItems (map : OpcodeMap) (syms : List (List Char × Nat)) : Nat → List Item → List (Nat × Word)
  | _, [] => []
  | a, i :: rest =>
    (itemWords map syms i).zipIdx.map (fun e => (a + e.2, e.1)) ++ emitItems map syms (a + itemCells i) rest

/-- The byte of a checked `byte` field. -/
def fieldByte (o : Operand) : Byte := (byteOperand o).getD 0

/-- The two words of a device's control block (R128). -/
def deviceCells (syms : List (List Char × Nat)) (d : DeviceInit) : List (Nat × Word) :=
  match d.fields with
  | [f, h, s, b] =>
    [(blockStatus d.number, fieldByte f ++ operandBits syms h), (blockBuffer d.number, fieldByte s ++ operandBits syms b)]
  | _ => []

/-! ## The image (R129, R132) -/

/-- The first device initialisation of a device that an earlier one initialised (R119). -/
def repeatedDevice : List (Fin 16) → List DeviceInit → Option DeviceInit
  | _, [] => none
  | seen, d :: rest => if seen.contains d.number then some d else repeatedDevice (d.number :: seen) rest

/-- The names of an address: the device name of a block's first word, then the labels bound there in declaration order (R131,
R132). -/
def labelsAt (p : Program) (syms : List (List Char × Nat)) (a : Nat) : List (List Char) :=
  (p.devices.filter (fun d => blockStatus d.number == a)).map (fun d => deviceName d.number) ++
  ((p.labels.map (·.name)).filter (fun n => syms.contains (n, a)))

/-- The address of every label: data from 0x20, text after the last data cell (R125, R126). -/
def symbolTable (p : Program) : List (List Char × Nat) :=
  bindLabels imageBase p.data ++ bindLabels (imageBase + (p.data.map itemCells).sum) p.text

/-- The image's cells in ascending address order: device blocks, data, text (R132). -/
def imageCells (map : OpcodeMap) (p : Program) : List (Nat × Word) :=
  let syms := symbolTable p
  ((List.finRange 16).flatMap (fun n => (p.devices.filter (fun d => d.number = n)).flatMap (deviceCells syms))) ++
  emitItems map syms imageBase p.data ++
  emitItems map syms (imageBase + (p.data.map itemCells).sum) p.text

/-- The code generator: its errors, or one listing line for every cell (R129, R132). -/
def generate (map : OpcodeMap) (p : Program) : Except AsmError (List ListingLine) :=
  match p.deviceSections with
  | _ :: l :: _ => .error (generationError l .section_)
  | _ =>
    match repeatedDevice [] p.devices with
    | some d => .error (generationError d.line (.label (deviceName d.number)))
    | none =>
      match overflowItem imageBase (p.data ++ p.text) with
      | some i => .error (generationError (itemLine i) (itemToken i))
      | none =>
        let syms := symbolTable p
        .ok ((imageCells map p).map (fun c =>
          { addr := c.1, entry := syms.contains (startName, c.1), value := c.2, labels := labelsAt p syms c.1 }))

/-! ## The listing (R131) -/

/-- An upper-case hexadecimal digit. -/
def hexChar (v : Nat) : Char := if v < 10 then Char.ofNat (48 + v) else Char.ofNat (55 + v)

/-- A number in `n` upper-case hexadecimal digits. -/
def hexText : Nat → Nat → List Char
  | 0, _ => []
  | n + 1, v => hexText n (v / 16) ++ [hexChar (v % 16)]

/-- The labels of a comment, separated by `, `. -/
def joinLabels : List (List Char) → List Char
  | [] => []
  | [n] => n
  | n :: rest => n ++ ", ".toList ++ joinLabels rest

/-- One line of the listing, without its line break (R131). -/
def renderLine (l : ListingLine) : List Char :=
  hexText 6 l.addr ++ [' ', if l.entry then '>' else ':', ' '] ++ hexText 8 l.value.toNat ++
  (if l.labels.isEmpty then [] else "  <- ".toList ++ joinLabels l.labels)

/-- The listing: one line per cell, each ended by LF (R131; log 19). -/
def renderListing (ls : List ListingLine) : List Char := ls.flatMap (fun l => renderLine l ++ ['\n'])

/-! ## The whole pipeline (R130, R134) -/

/-- The assembler: the lines of the listing, or the first error in stage order (R130). -/
def assemble (map : OpcodeMap) (src : List Char) : Except AsmError (List ListingLine) :=
  match parse src with
  | .error e => .error e
  | .ok nodes =>
    match analyse nodes with
    | .error e => .error e
    | .ok p => generate map p

/-- The assembler's output text. -/
def assembleText (map : OpcodeMap) (src : List Char) : Except AsmError (List Char) :=
  match assemble map src with
  | .error e => .error e
  | .ok ls => .ok (renderListing ls)

end Sys2Proof.Machine
end

