-- ==== Sys2Proof/Machine/Loader.lean ====
section
/-! DEFINITION. The loader (70_reset_and_hazards.md R450 to R459): a listing and the parameters to the start state. -/

namespace Sys2Proof.Machine

/-! ## Lines (R455, R458) -/

/-- The lines of a text, split at LF, CR LF or CR. `cur` is the line being read, reversed; `cr` says that its predecessor
ended with a CR just before. -/
def splitLines : List Char → List Char → Bool → List (List Char)
  | [], cur, _ => [cur.reverse]
  | c :: cs, cur, cr =>
    if c = '\n' then if cr then splitLines cs [] false else cur.reverse :: splitLines cs [] false
    else if c = '\r' then cur.reverse :: splitLines cs [] true
    else splitLines cs (c :: cur) false

/-- A line that is empty or only spaces and tabs (R458). -/
def blankLine (l : List Char) : Bool := l.all isBlank

/-- Exactly `n` hex digits at the front, either case. -/
def takeHex : Nat → Nat → List Char → Option (Nat × List Char)
  | 0, v, cs => some (v, cs)
  | _ + 1, _, [] => none
  | n + 1, v, c :: cs =>
    match hexDigit c with
    | some d => takeHex n (v * 16 + d) cs
    | none => none

/-- `ws+`: at least one space or tab, then all of them. -/
def skipBlanks (cs : List Char) : Option (List Char) :=
  match cs with
  | [] => none
  | c :: rest => if isBlank c then some (rest.dropWhile isBlank) else none

/-- The end of a line after VALUE: `[ ws+ "<-" rest ] ws*`. -/
def lineTail (cs : List Char) : Bool :=
  blankLine cs ||
  match skipBlanks cs with
  | some (a :: b :: _) => a == '<' && b == '-'
  | _ => false

/-- A line of the loader's grammar: the address, whether it is the entry, and the value (R458). -/
def parseLine (l : List Char) : Option (Nat × Bool × Word) :=
  match takeHex 6 0 (l.dropWhile isBlank) with
  | none => none
  | some (a, r1) =>
    match skipBlanks r1 with
    | some (mark :: r2) =>
      if mark = ':' ∨ mark = '>' then
        match skipBlanks r2 with
        | none => none
        | some r3 =>
          match takeHex 8 0 r3 with
          | none => none
          | some (v, r4) => if lineTail r4 then some (a, mark == '>', BitVec.ofNat 32 v) else none
      else none
    | _ => none

/-- A parsed line with its number. -/
abbrev LoadedLine := Nat × (Nat × Bool × Word)

/-- Every line that is not blank, parsed, with its number; the first that does not match is an error (R459). The
first line is number 1 (95_test_vectors.md LD-5). DESIGN CHOICE: the blank lines that R455 drops count too (log 20). -/
def parseLines : Nat → List (List Char) → Except LoadError (List LoadedLine)
  | _, [] => .ok []
  | n, l :: rest =>
    if blankLine l then parseLines (n + 1) rest
    else
      match parseLine l with
      | none => .error (.malformed n)
      | some c =>
        match parseLines (n + 1) rest with
        | .error e => .error e
        | .ok cs => .ok ((n, c) :: cs)

/-- The number of the first line whose address an earlier line named (R459). -/
def repeatedAddress : List Nat → List LoadedLine → Option Nat
  | _, [] => none
  | seen, (n, a, _) :: rest => if seen.contains a then some n else repeatedAddress (a :: seen) rest

/-! ## The load (R455 to R457) -/

/-- The memory with a listing's cells written over MEM_INIT (R457). -/
def loadCells (m : Memory) : List LoadedLine → Memory
  | [] => m
  | (_, a, _, v) :: rest => loadCells (m.write a v) rest

/-- The entry address of the `>` lines: exactly one is wanted (R456, R459). -/
def entryOf (ls : List LoadedLine) : Except LoadError Nat :=
  match ls.filter (fun l => l.2.2.1) with
  | [] => .error .noEntry
  | [(_, a, _)] => .ok a
  | _ :: (n, _) :: _ => .error (.secondEntry n)

/-- `load(L)`: the start state, or the first error; all-or-nothing (R455; log 20). -/
def load (p : Params) (listing : List Char) : Except LoadError State :=
  match parseLines 1 (splitLines listing [] false) with
  | .error e => .error e
  | .ok ls =>
    match repeatedAddress [] ls with
    | some n => .error (.duplicateAddress n)
    | none =>
      match entryOf ls with
      | .error e => .error e
      | .ok entry => .ok (State.launch p (BitVec.ofNat 24 entry) (loadCells (Memory.blank p.memInit) ls))

end Sys2Proof.Machine
end

