-- ==== Sys2Proof/Machine/Ticks.lean ====
section
/-! DEFINITION. The control unit at its finest grain: one tick, or one of the phase changes that take no tick
(40_datapath.md R181 to R190). `step` runs the same cycle to its end in one move. -/

namespace Sys2Proof.Machine

/-- The EXECUTE microprogram of an instruction; only the conditional jumps and SHIFT_FLAGS choose
(40_datapath.md R187, R190). -/
def microprogram (i : Instr) (s : State) : List MicroInstr :=
  match i with
  | .add => addProgram
  | .sub => subProgram
  | .mul => mulProgram
  | .div => divProgram
  | .and => andProgram
  | .or => orProgram
  | .not => notProgram
  | .neg => negProgram
  | .shl => shlProgram s.shiftFlags
  | .shr => shrProgram s.shiftFlags
  | .rol => rolProgram s.shiftFlags
  | .ror => rorProgram s.shiftFlags
  | .cmp => cmpProgram
  | .pop => popProgram
  | .pushf => pushfProgram
  | .popf => popfProgram
  | .inc => incProgram
  | .dec => decProgram
  | .swap => swapProgram
  | .dup => dupProgram
  | .ret => retProgram
  | .push _ => pushProgram
  | .call _ => callProgram
  | .jmp _ => jumpProgram true
  | .jz _ => jumpProgram (condJz s)
  | .je _ => jumpProgram (condJe s)
  | .jnz _ => jumpProgram (condJnz s)
  | .jg _ => jumpProgram (condJg s)
  | .jge _ => jumpProgram (condJge s)
  | .jl _ => jumpProgram (condJl s)
  | .jle _ => jumpProgram (condJle s)
  | .ld => ldProgram
  | .st => stProgram
  | .set _ => setProgram
  | .unset _ => unsetProgram
  | .check _ => checkProgram
  | .nop => nopProgram
  | .halt => haltProgram
  | .ei => eiProgram
  | .di => diProgram
  | .iret => iretProgram

/-- One tick, or one phase change (40_datapath.md R183): RUN is tested before the first tick of FETCH. -/
def tick (s : State) : Host.Outcome State Fault Refusal :=
  match s.faultStatus with
  | some k => .fault (.runFaulted k)
  | none =>
    match s.phase with
    | .fetch =>
      if s.microPos = 0 ∧ s.flagRUN = false then .fault .runHalted
      else
        match fetchProgram[s.microPos]? with
        | some m => .next (microTick m s)
        | none => .next { s with phase := .decode, microPos := 0 }
    | .decode =>
      match decodeWith s.opcodeMap s.cr with
      | .error _ => .next (s.raiseFault .unknownOpcode)
      | .ok _ => .next s.enterExecute
    | .execute =>
      match decodeWith s.opcodeMap s.cr with
      | .error _ => .next (s.raiseFault .unknownOpcode)
      | .ok i =>
        match (microprogram i s)[s.microPos]? with
        | some m => .next (microTick m s)
        | none => .next { s with instructions := s.instructions + 1, phase := .devicePoll, microPos := 0 }
    | .devicePoll => .next { s.devicePoll with phase := .fetch, microPos := 0 }

/-- `k` ticks and phase changes, stopping at the first stop. -/
def runTicks : Nat → State → Host.Outcome State Fault Refusal
  | 0, s => .next s
  | k + 1, s =>
    match tick s with
    | .next s' => runTicks k s'
    | .fault f => .fault f
    | .refused r => .refused r

end Sys2Proof.Machine
end

