-- ==== Sys2Proof/Safety.lean ====
section
/-! DEFINITION. The terms that statements about the machine use: a run that goes on, the invariant of every step, the frames
of an instruction, what a poll may change, and the tick table. -/

namespace Sys2Proof.Machine

/-! ## Runs -/

/-- The next cycle begins: no fault was taken and SR.RUN is 1 (40_datapath.md R183, 10_state.md R39). -/
structure Running (s : State) : Prop where
  fault : s.faultStatus = none
  run : s.flagRUN = true

/-- The word FETCH reads (40_datapath.md R185). -/
def fetchedWord (s : State) : Word := s.mem.read (trunc24 s.pc).toNat

/-- The state in which EXECUTE begins, written out from the net effect of FETCH (40_datapath.md R185). -/
def fetchedState (s : State) : State :=
  { s with
    pc := trunc24 (s.pc + 1), cr := fetchedWord s, dr := fetchedWord s, ar := trunc24 s.pc, br := trunc24 s.pc
    ticks := s.ticks + 4, phase := .execute, microPos := 0 }

/-- The state after an instruction that completed with `t`: the instruction counter, then the polls (R184, R188). -/
def completedState (t : State) : State :=
  { t with
    instructions := t.instructions + 1, devices := (pollAll t.devices t.mem).1, mem := (pollAll t.devices t.mem).2
    phase := .fetch, microPos := 0 }

/-- What holds between any two steps: the addresses stay below 2^24 (10_state.md R22, R23, R25), the memory keeps its
canonical form, and a run that took no fault stands before FETCH. -/
structure Inv (s : State) : Prop where
  pc : s.pc.toNat < cellCount
  sp : s.sp.toNat < cellCount
  ar : s.ar.toNat < cellCount
  mem : s.mem.wf = true
  boundary : s.faultStatus = none → s.phase = .fetch ∧ s.microPos = 0

/-- The instruction at PC clears SR.RUN: it completes, its poll runs, and the run ends halted at the top of the next cycle
(70_reset_and_hazards.md R472). -/
def HaltsAfter (i : Instr) (s : State) : Prop :=
  ∃ u, exec i (fetchedState s) = .next u ∧ step s = .next (completedState u) ∧
    step (completedState u) = .fault .runHalted

/-! ## Frames -/

/-- Cell `a` comes to hold `v`, and every other cell reads as before. -/
structure Stores (m m' : Memory) (a : Nat) (v : Word) : Prop where
  stored : m'.read a = v
  others : ∀ b, b ≠ a → m'.read b = m.read b
  init : m'.init = m.init

/-- What EXECUTE leaves alone in every instruction that completes, and the ticks it counts: one for each microinstruction
(40_datapath.md R181). -/
structure ControlKept (s t : State) (n : Nat) : Prop where
  instructions : t.instructions = s.instructions
  phase : t.phase = s.phase
  faultStatus : t.faultStatus = s.faultStatus
  devices : t.devices = s.devices
  shiftFlags : t.shiftFlags = s.shiftFlags
  opcodeMap : t.opcodeMap = s.opcodeMap
  ticks : t.ticks = s.ticks + n
  microPos : t.microPos = s.microPos + n

/-- SR after the commit set {NZ,V,C}: those four flags, every other bit as before. -/
structure FlagsNZVC (sr sr' : Word) (c v z n : Bool) : Prop where
  c : sr'.getLsbD 0 = c
  v : sr'.getLsbD 1 = v
  z : sr'.getLsbD 2 = z
  n : sr'.getLsbD 3 = n
  others : ∀ k, 4 ≤ k → sr'.getLsbD k = sr.getLsbD k

/-- SR after the commit set {NZ}: Z and N, every other bit as before, C and V among them. -/
structure FlagsNZ (sr sr' : Word) (z n : Bool) : Prop where
  z : sr'.getLsbD 2 = z
  n : sr'.getLsbD 3 = n
  others : ∀ k, k ≠ 2 → k ≠ 3 → sr'.getLsbD k = sr.getLsbD k

/-- SR with bit `k` set to `b`, every other bit as before. -/
structure OneBit (sr sr' : Word) (k : Nat) (b : Bool) : Prop where
  bit : sr'.getLsbD k = b
  others : ∀ j, j ≠ k → sr'.getLsbD j = sr.getLsbD j

/-- A binary operation with result `r`, but for SR: the result replaces NOS, one cell is popped (41_stack_arithmetic.md R200);
the scratch registers as 40_datapath.md R193 gives them. -/
structure BinaryEffect (s t : State) (r : Word) (n : Nat) : Prop where
  pc : t.pc = s.pc
  sp : t.sp = trunc24 (s.sp + 1)
  cr : t.cr = s.cr
  ar : t.ar = trunc24 (s.sp + 1)
  dr : t.dr = r
  br : t.br = s.tos
  mem : Stores s.mem t.mem s.nosAddr r
  control : ControlKept s t n

/-- A unary operation in place with result `r`, but for SR: the result replaces TOS, SP is unchanged (R200). -/
structure UnaryEffect (s t : State) (r : Word) (n : Nat) : Prop where
  pc : t.pc = s.pc
  sp : t.sp = s.sp
  cr : t.cr = s.cr
  ar : t.ar = trunc24 s.sp
  dr : t.dr = r
  br : t.br = s.br
  mem : Stores s.mem t.mem s.tosAddr r
  control : ControlKept s t n

/-- A shift or rotation of TOS with result `r`: N and Z of the value before it or after it, as SHIFT_FLAGS says, V and C as
before (41_stack_arithmetic.md R209 to R212). -/
structure ShiftEffect (s t : State) (r : Word) : Prop where
  pre : s.shiftFlags = .pre →
    UnaryEffect s t r 4 ∧ FlagsNZ s.sr t.sr (decide (s.tos = 0)) (s.tos.getLsbD 31)
  post : s.shiftFlags = .post →
    UnaryEffect s t r 5 ∧ FlagsNZ s.sr t.sr (decide (r = 0)) (r.getLsbD 31)

/-- A push of `v`: SP down by one, the cell it then names holds `v` (42_stack_management.md R230). CR and PC are left to the
statement. -/
structure PushEffect (s t : State) (v : Word) (n : Nat) : Prop where
  sp : t.sp = trunc24 (s.sp - 1)
  ar : t.ar = trunc24 (s.sp - 1)
  dr : t.dr = v
  sr : t.sr = s.sr
  br : t.br = s.br
  mem : Stores s.mem t.mem s.pushAddr v
  control : ControlKept s t n

/-- A jump whose condition is `taken`, with target `x` (43_control_flow.md R260): only PC, and CR that holds the operand. -/
structure JumpEffect (s t : State) (x : Addr) (taken : Bool) : Prop where
  pc : t.pc = if taken then x.setWidth 32 else s.pc
  sp : t.sp = s.sp
  cr : t.cr = (s.loadOperand x).cr
  ar : t.ar = s.ar
  dr : t.dr = s.dr
  sr : t.sr = s.sr
  br : t.br = s.br
  mem : t.mem = s.mem
  control : ControlKept s t (if taken then 1 else 0)

/-- An instruction of which only SR, BR and DR may change, in the way the statement says (46_privileged.md). -/
structure StatusEffect (s t : State) (n : Nat) : Prop where
  pc : t.pc = s.pc
  sp : t.sp = s.sp
  cr : t.cr = s.cr
  ar : t.ar = s.ar
  mem : t.mem = s.mem
  control : ControlKept s t n

/-! ## Devices -/

/-- What a poll of device `n` may do to the memory (60_exceptions.md R425): its buffer cells and bit 31 of cell 2n, and
nothing else; the block's own two words only through that bit (log 10). -/
structure PollLegal (n : Fin 16) (m m' : Memory) : Prop where
  others : ∀ a, a ≠ blockStatus n → a ∉ bufferCells m n → m'.read a = m.read a
  status : ∀ k, k ≠ 31 → (m'.read (blockStatus n)).getLsbD k = (m.read (blockStatus n)).getLsbD k
  buffer : m'.read (blockBuffer n) = m.read (blockBuffer n)
  init : m'.init = m.init

/-- The memory with another handler address in the block of device `n`, and all else as it was. -/
def withHandler (m : Memory) (n : Fin 16) (h : Addr) : Memory := m.write (blockStatus n) (flagsByte m n ++ h)

/-- The memory after the polls of the devices numbered below `n`, each on what the one before it left. -/
def polledBelow (ds : DeviceSet) (m : Memory) : Nat → Memory
  | 0 => m
  | n + 1 =>
    if h : n < 16 then
      match ds[n] with
      | some k => (pollDevice ⟨⟨n, h⟩, k⟩ (polledBelow ds m n)).2
      | none => polledBelow ds m n
    else polledBelow ds m n

/-! ## The tick table (70_reset_and_hazards.md R473) -/

/-- The ticks of a jump that is taken or not. -/
def jumpTicks (taken : Bool) : Nat := if taken then 5 else 4

/-- The ticks of one whole cycle, FETCH included, of an instruction whose EXECUTE begins in `s`. -/
def tickCost (i : Instr) (s : State) : Nat :=
  match i with
  | .add => 12
  | .sub => 12
  | .mul => 12
  | .div => if s.tos = 0 then 10 else 12
  | .and => 12
  | .or => 13
  | .cmp => 10
  | .not => 8
  | .neg => 8
  | .inc => 8
  | .dec => 8
  | .shl => if s.shiftFlags = .post then 9 else 8
  | .shr => if s.shiftFlags = .post then 9 else 8
  | .rol => if s.shiftFlags = .post then 9 else 8
  | .ror => if s.shiftFlags = .post then 9 else 8
  | .pop => 5
  | .pushf => 7
  | .popf => 8
  | .swap => 14
  | .dup => 8
  | .nop => 4
  | .ei => 9
  | .iret => 12
  | .push _ => 7
  | .call _ => 8
  | .ret => 8
  | .jmp _ => 5
  | .jz _ => jumpTicks (s.sr.getLsbD 2)
  | .je _ => jumpTicks (s.sr.getLsbD 2)
  | .jnz _ => jumpTicks (!s.sr.getLsbD 2)
  | .jg _ => jumpTicks (!s.sr.getLsbD 2 && !s.sr.getLsbD 3)
  | .jge _ => jumpTicks (!s.sr.getLsbD 3)
  | .jl _ => jumpTicks (s.sr.getLsbD 3)
  | .jle _ => jumpTicks (s.sr.getLsbD 3 || s.sr.getLsbD 2)
  | .ld => 10
  | .st => 12
  | .set _ => 10
  | .unset _ => 9
  | .check _ => 8
  | .halt => 7
  | .di => 8

/-! ## Listings -/

/-- A listing the loader accepts: cell indices below 2^24, each once, one entry cell, no line break inside a label
(70_reset_and_hazards.md R455, R458). -/
structure LoadableListing (ls : List ListingLine) (entry : Nat) : Prop where
  range : ∀ l ∈ ls, l.addr < cellCount
  distinct : (ls.map (·.addr)).Nodup
  entries : (ls.filter (·.entry)).map (·.addr) = [entry]
  labels : ∀ l ∈ ls, ∀ n ∈ l.labels, ∀ c ∈ n, isBreak c = false

end Sys2Proof.Machine
end

