-- ==== Sys2Proof/Certificates/Slice0/Obligations.lean ====
section
/-! DEFINITION. The statements for the provers. Each formalises the rules of spec/ its docstring names. -/

open Sys2Proof Sys2Proof.Machine

/-! ## Encodings -/

/-- Decode and encode agree, for every instruction, every operand and every legal opcode map (30_encoding.md R87, R127). -/
def Obligations.DecodeOfEncode : Prop :=
  ∀ map : OpcodeMap, legalOpcodeMap map = true → ∀ i : Instr, decodeWith map (encodeWith map i) = .ok i

/-- The other direction: a word that decodes to an instruction differs from the instruction's own word in ignored bits only,
the submode of format A or bits 23:0 of format N (R89, R90). -/
def Obligations.EncodeOfDecode : Prop :=
  ∀ map : OpcodeMap, legalOpcodeMap map = true → ∀ (w : Word) (i : Instr), decodeWith map w = .ok i →
    encodeWith map i = if isAddressed w then w &&& 0xFCFFFFFF#32 else w &&& 0xFF000000#32

/-- The submode is ignored in format A, and emitted as 0b00 (R89). Bits 23:0 are ignored in format N, and emitted as 0
(R90). -/
def Obligations.IgnoredBits : Prop :=
  (∀ (map : OpcodeMap) (w w' : Word), isAddressed w = true → w &&& 0xFCFFFFFF#32 = w' &&& 0xFCFFFFFF#32 →
    (∀ i, decodeWith map w = .ok i ↔ decodeWith map w' = .ok i)) ∧
  (∀ (map : OpcodeMap) (w w' : Word), isAddressed w = false → w &&& 0xFF000000#32 = w' &&& 0xFF000000#32 →
    (∀ i, decodeWith map w = .ok i ↔ decodeWith map w' = .ok i)) ∧
  (∀ map : OpcodeMap, legalOpcodeMap map = true → ∀ i : Instr,
    (i.mnemonic.format = .a → (encodeWith map i).extractLsb' 24 2 = 0#2) ∧
    (i.mnemonic.format = .n → (encodeWith map i).extractLsb' 0 24 = 0#24))

/-- With the default opcode map exactly these bytes are unassigned: format N 0x00, 0x3A and above, and every odd byte; format A
0xB4 and above, whatever the submode; a fetched one takes UNKNOWN_OPCODE (R88). -/
def Obligations.UnassignedOpcodes : Prop :=
  (∀ w : Word, (∃ e, decode w = .error e) ↔
    if isAddressed w then 0xB4 ≤ ((opcodeByte w) &&& 0xFC#8).toNat
    else opcodeByte w = 0x00#8 ∨ 0x3A ≤ (opcodeByte w).toNat ∨ (opcodeByte w).getLsbD 0 = true) ∧
  (∃ e, decode 0x00000000#32 = .error e) ∧
  (∀ s : State, Running s → s.opcodeMap = defaultOpcodeMap → (∃ e, decode (fetchedWord s) = .error e) →
    ∃ t, step s = .next t ∧ t.faultStatus = some .unknownOpcode)

/-- A few words written out from the table of R86 decode to the instructions they stand for: the two formats, an operand at
the ends of its range, a submode and unused bits. -/
def Obligations.SampleWordsDecode : Prop :=
  decode 0b00000110_000000000000000000000000#32 = .ok .add ∧
  decode 0b00111000_000000000000000000000000#32 = .ok .iret ∧
  decode 0b00000010_111111111111111111111111#32 = .ok .nop ∧
  decode 0b10000000_000000000000000000000010#32 = .ok (.push 2) ∧
  decode 0b10001000_111111111111111111111111#32 = .ok (.jmp 0xFFFFFF) ∧
  decode 0b10110011_000000000000000000000100#32 = .ok (.check 4)

/-- The layout of a microinstruction word: every field at its bits, and nothing lost either way (R95). -/
def Obligations.MicroWordLayout : Prop :=
  (∀ m : MicroInstr,
    m.pack.extractLsb' 0 3 = m.cls ∧ m.pack.extractLsb' 3 8 = m.tgt ∧ m.pack.extractLsb' 11 8 = m.lhs ∧
    m.pack.extractLsb' 19 8 = m.rhs ∧ m.pack.extractLsb' 27 6 = m.alu ∧ m.pack.extractLsb' 33 10 = m.comm ∧
    MicroInstr.unpack m.pack = m) ∧
  (∀ w : BitVec 43, (MicroInstr.unpack w).pack = w)

/-- Reserved microinstruction encodings: no microprogram uses one; the data path faults on a reserved class and on a reserved
shift in any class; mask bit 7 is ignored (R100, 60_exceptions.md R404). That a READ or WRITE faults so before its memory access,
though it ignores COMM otherwise, is the model's choice (log 23); that an ALU fault comes before the reserved shift is log 21. -/
def Obligations.ReservedMicroops : Prop :=
  (∀ m ∈ fetchProgram, m.wellFormed = true) ∧
  (∀ (i : Instr) (s : State), ∀ m ∈ microprogram i s, m.wellFormed = true) ∧
  (∀ (m : MicroInstr) (s : State), m.classAssigned = false → dataPath m s = .error .reservedMicroop) ∧
  (∀ (m : MicroInstr) (s : State), m.shiftAssigned = false →
    (m.cls = 0#3 → ∃ r, aluCompute (gather s m.lhs) (gather s m.rhs) m.alu = .ok r) →
    dataPath m s = .error .reservedMicroop) ∧
  (∀ (m : MicroInstr) (s : State),
    dataPath { m with tgt := m.tgt &&& 0x7F#8, lhs := m.lhs &&& 0x7F#8, rhs := m.rhs &&& 0x7F#8 } s = dataPath m s)

/-! ## The arithmetic-logic unit and the commutator -/

/-- The ALU laws for untransformed operands (40_datapath.md R167). -/
def Obligations.AluUntransformedLaws : Prop :=
  ∀ a b : Word,
    (∃ f, aluCompute a b (aluCode .add .id .id) = .ok (a + b, f) ∧
      f.c = decide (0xFFFFFFFF < a.toNat + b.toNat) ∧ f.v = false) ∧
    (∃ f, aluCompute a b (aluCode .and .id .id) = .ok (a &&& b, f) ∧ f.c = false ∧ f.v = false) ∧
    (∃ f, aluCompute a b (aluCode .mul .id .id) = .ok (a * b, f) ∧
      f.c = decide (0xFFFFFFFF < a.toNat * b.toNat) ∧ f.v = false) ∧
    (b ≠ 0 → ∃ f, aluCompute a b (aluCode .div .id .id) = .ok (a / b, f) ∧
      (a / b).toNat = a.toNat / b.toNat ∧ f.c = false ∧ f.v = false)

/-- The overflow flag on transformed unbounded operands, and what follows from it for each operation (R165). -/
def Obligations.OverflowFlag : Prop :=
  ∀ (op : AluOp) (l r res : Int), aluResult op l r = .ok res →
    ((aluFlags l r res).v = true ↔ (0 < l ∧ 0 < r ∧ res < 0) ∨ (l < 0 ∧ r < 0 ∧ 0 < res)) ∧
    (op = .add → (aluFlags l r res).v = false) ∧
    (op = .mul ∨ op = .div → ((aluFlags l r res).v = true ↔ l < 0 ∧ r < 0 ∧ 0 < res)) ∧
    (op = .and → (0 < l ∧ 0 < r) ∨ (l < 0 ∧ r < 0) → (aluFlags l r res).v = false)

/-- The ALU faults exactly on DIV with a transformed right operand of 0, with DIVISION_BY_ZERO (R162). -/
def Obligations.AluFaults : Prop :=
  ∀ (x y : Word) (op : AluOp) (l r : Transform) (k : FaultKind),
    aluCompute x y (aluCode op l r) = .error k ↔
      k = .divisionByZero ∧ op = .div ∧ applyTransform r (y.toNat : Int) = 0

/-- The named lane settings, with no shift, whatever the commit bits (R171). -/
def Obligations.LaneSettings : Prop :=
  ∀ (v : Word) (comm : BitVec 10), comm.extractLsb' 4 3 = 0#3 →
    (comm.extractLsb' 0 4 = 0b1010#4 → commutate v comm = .ok v) ∧
    (comm.extractLsb' 0 4 = 0b1111#4 → commutate v comm = .ok (v &&& 0x00FFFFFF#32)) ∧
    (comm.extractLsb' 0 4 = 0b0100#4 → commutate v comm = .ok (v >>> 16)) ∧
    (comm.extractLsb' 0 4 = 0b0001#4 → commutate v comm = .ok ((v &&& 0xFFFF#32) <<< 16)) ∧
    (comm.extractLsb' 0 4 = 0b0000#4 → commutate v comm = .ok 0#32)

/-- The shift stage, on the input value, whatever the lane and commit bits: bit by bit, each selector (R172). -/
def Obligations.ShiftStage : Prop :=
  ∀ (v : Word) (comm : BitVec 10),
    (comm.extractLsb' 4 3 = 1#3 → ∃ out, commutate v comm = .ok out ∧
      out.getLsbD 0 = false ∧ ∀ k < 31, out.getLsbD (k + 1) = v.getLsbD k) ∧
    (comm.extractLsb' 4 3 = 2#3 → ∃ out, commutate v comm = .ok out ∧
      out.getLsbD 31 = false ∧ ∀ k < 31, out.getLsbD k = v.getLsbD (k + 1)) ∧
    (comm.extractLsb' 4 3 = 3#3 → ∃ out, commutate v comm = .ok out ∧
      out.getLsbD 0 = v.getLsbD 31 ∧ ∀ k < 31, out.getLsbD (k + 1) = v.getLsbD k) ∧
    (comm.extractLsb' 4 3 = 4#3 → ∃ out, commutate v comm = .ok out ∧
      out.getLsbD 31 = v.getLsbD 0 ∧ ∀ k < 31, out.getLsbD k = v.getLsbD (k + 1)) ∧
    (5 ≤ (comm.extractLsb' 4 3).toNat → commutate v comm = .error .reservedMicroop)

/-- The flag-commit stage, bit by bit, and that a transfer commits the flags of its own ALU result, before the lane and shift
stages (R175). -/
def Obligations.FlagCommit : Prop :=
  (∀ (m : MicroInstr) (s t : State) (res : Word) (f : AluFlags),
    m.cls = 0#3 → m.tgt.getLsbD 5 = false → aluCompute (gather s m.lhs) (gather s m.rhs) m.alu = .ok (res, f) →
    dataPath m s = .ok t → t.sr = commitFlags m.comm f s.sr) ∧
  ∀ (comm : BitVec 10) (f : AluFlags) (sr : Word) (k : Nat),
    (commitFlags comm f sr).getLsbD k =
      if k = 0 ∧ comm.getLsbD 9 = true then f.c
      else if k = 1 ∧ comm.getLsbD 8 = true then f.v
      else if k = 2 ∧ comm.getLsbD 7 = true then f.z
      else if k = 3 ∧ comm.getLsbD 7 = true then f.n
      else sr.getLsbD k

/-- A microinstruction that has SR among its targets leaves the commutator's output in SR; one that changes SR is a transfer
that has SR among its targets or sets a commit bit; no microprogram does both (R180). -/
def Obligations.StatusWriteBack : Prop :=
  (∀ (m : MicroInstr) (s t : State) (res : Word) (f : AluFlags) (out : Word),
    m.cls = 0#3 → m.tgt.getLsbD 5 = true → aluCompute (gather s m.lhs) (gather s m.rhs) m.alu = .ok (res, f) →
    commutate res m.comm = .ok out → dataPath m s = .ok t → t.sr = out) ∧
  (∀ (m : MicroInstr) (s t : State), dataPath m s = .ok t → t.sr ≠ s.sr →
    m.cls = 0#3 ∧ (m.tgt.getLsbD 5 = true ∨ m.comm.getLsbD 7 = true ∨ m.comm.getLsbD 8 = true ∨
      m.comm.getLsbD 9 = true)) ∧
  (∀ (i : Instr) (s : State), ∀ m ∈ fetchProgram ++ microprogram i s, m.tgt.getLsbD 5 = true →
    m.comm.getLsbD 7 = false ∧ m.comm.getLsbD 8 = false ∧ m.comm.getLsbD 9 = false)

/-! ## Memory -/

/-- READ and WRITE reach every cell index below 2^24 and fault on any other; a WRITE changes the one cell (20_memory.md
R55). -/
def Obligations.MemoryRange : Prop :=
  (∀ s : State, 2 ^ 24 ≤ s.ar.toNat →
    dataPath uREAD s = .error .addressOutOfRange ∧ dataPath uWRITE s = .error .addressOutOfRange) ∧
  ∀ (m : Memory) (a v : Word),
    (a.toNat < 2 ^ 24 → memRead m a = .ok (m.read a.toNat) ∧ ∃ m', memWrite m a v = .ok m' ∧ Stores m m' a.toNat v) ∧
    (2 ^ 24 ≤ a.toNat → memRead m a = .error .addressOutOfRange ∧ memWrite m a v = .error .addressOutOfRange)

/-- Two memories in canonical form that read alike are the same data. This is about the model's form (log 1). -/
def Obligations.CanonicalMemory : Prop :=
  ∀ m m' : Memory, m.wf = true → m'.wf = true → m.init = m'.init → (∀ a, m.read a = m'.read a) → m = m'

/-! ## Stack arithmetic (41_stack_arithmetic.md) -/

/-- ADD (R201), SUB (R202) and MUL (R203): the result and all four flags. -/
def Obligations.AddSubMulResult : Prop :=
  encode .add = 0x06000000#32 ∧ encode .sub = 0x08000000#32 ∧ encode .mul = 0x0A000000#32 ∧
  (∀ s : State, ∃ t, exec .add s = .next t ∧ BinaryEffect s t (s.nos + s.tos) 8 ∧
    FlagsNZVC s.sr t.sr (decide (0xFFFFFFFF < s.nos.toNat + s.tos.toNat)) false (decide (s.nos + s.tos = 0))
      ((s.nos + s.tos).getLsbD 31)) ∧
  (∀ s : State, ∃ t, exec .sub s = .next t ∧ BinaryEffect s t (s.nos - s.tos) 8 ∧
    FlagsNZVC s.sr t.sr false false (decide (s.nos = s.tos)) ((s.nos - s.tos).getLsbD 31)) ∧
  (∀ s : State, ∃ t, exec .mul s = .next t ∧ BinaryEffect s t (s.nos * s.tos) 8 ∧
    FlagsNZVC s.sr t.sr (decide (0xFFFFFFFF < s.nos.toNat * s.tos.toNat)) false (decide (s.nos * s.tos = 0))
      ((s.nos * s.tos).getLsbD 31))

/-- DIV (R204): with a divisor other than 0 it completes with the unsigned quotient; with the divisor 0 it takes
DIVISION_BY_ZERO before any write of SP, SR or memory, PC as FETCH left it. -/
def Obligations.DivResult : Prop :=
  encode .div = 0x0C000000#32 ∧
  (∀ s : State, s.tos ≠ 0 → ∃ t, exec .div s = .next t ∧ BinaryEffect s t (s.nos / s.tos) 8 ∧
    (s.nos / s.tos).toNat = s.nos.toNat / s.tos.toNat ∧
    FlagsNZVC s.sr t.sr false false (decide (s.nos.toNat < s.tos.toNat)) ((s.nos / s.tos).getLsbD 31)) ∧
  (∀ s : State, s.tos = 0 → ∃ t, exec .div s = .next t ∧ t.faultStatus = some .divisionByZero ∧
    t.pc = s.pc ∧ t.sp = s.sp ∧ t.sr = s.sr ∧ t.mem = s.mem)

/-- A whole cycle of `div` with the divisor 0, from any state that runs: the table of 60_exceptions.md R402, and that only
`div` raises this fault. The phase and the micro-position of the faulted state are the model's choice (log 12). -/
def Obligations.DivideByZeroCycle : Prop :=
  (∀ s : State, Running s → decodeWith s.opcodeMap (fetchedWord s) = .ok .div → s.tos = 0 →
    step s = .next { s with
      pc := trunc24 (s.pc + 1), cr := fetchedWord s, ar := trunc24 (s.sp + 1), dr := s.nos, br := 0
      ticks := s.ticks + 10, phase := .execute, microPos := 5, faultStatus := some .divisionByZero }) ∧
  (∀ s t : State, Running s → step s = .next t → t.faultStatus = some .divisionByZero →
    decodeWith s.opcodeMap (fetchedWord s) = .ok .div)

/-- AND (R205) and OR (R206): N and Z from the result, V and C as before. -/
def Obligations.AndOrResult : Prop :=
  encode .and = 0x0E000000#32 ∧ encode .or = 0x10000000#32 ∧
  (∀ s : State, ∃ t, exec .and s = .next t ∧ BinaryEffect s t (s.nos &&& s.tos) 8 ∧
    FlagsNZ s.sr t.sr (decide (s.nos &&& s.tos = 0)) ((s.nos &&& s.tos).getLsbD 31)) ∧
  (∀ s : State, ∃ t, exec .or s = .next t ∧ BinaryEffect s t (s.nos ||| s.tos) 9 ∧
    FlagsNZ s.sr t.sr (decide (s.nos ||| s.tos = 0)) ((s.nos ||| s.tos).getLsbD 31))

/-- NOT (R207): Z and N of the complement, V and C as before. NEG (R208): all four flags. -/
def Obligations.NotNegResult : Prop :=
  encode .not = 0x12000000#32 ∧ encode .neg = 0x14000000#32 ∧
  (∀ s : State, ∃ t, exec .not s = .next t ∧ UnaryEffect s t (~~~ s.tos) 4 ∧
    FlagsNZ s.sr t.sr (decide (s.tos = 0xFFFFFFFF#32)) (!s.tos.getLsbD 31)) ∧
  (∀ s : State, ∃ t, exec .neg s = .next t ∧ UnaryEffect s t (-s.tos) 4 ∧
    FlagsNZVC s.sr t.sr false false (decide (s.tos = 0)) ((-s.tos).getLsbD 31))

/-- SHL, SHR, ROL and ROR (R209 to R212): the result, and Z and N of the value before the shift or after it as SHIFT_FLAGS
says; V and C as before. -/
def Obligations.ShiftResults : Prop :=
  encode .shl = 0x16000000#32 ∧ encode .shr = 0x18000000#32 ∧ encode .rol = 0x1A000000#32 ∧
  encode .ror = 0x1C000000#32 ∧
  ∀ s : State,
    (∃ t, exec .shl s = .next t ∧ ShiftEffect s t (s.tos <<< 1)) ∧
    (∃ t, exec .shr s = .next t ∧ ShiftEffect s t (s.tos >>> 1)) ∧
    (∃ t, exec .rol s = .next t ∧ ShiftEffect s t ((s.tos <<< 1) ||| (s.tos >>> 31))) ∧
    (∃ t, exec .ror s = .next t ∧ ShiftEffect s t ((s.tos >>> 1) ||| ((s.tos &&& 1) <<< 31)))

/-- CMP (R213): the flags of SUB, nothing written to memory, SP unchanged. -/
def Obligations.CmpResult : Prop :=
  encode .cmp = 0x1E000000#32 ∧
  ∀ s : State, ∃ t, exec .cmp s = .next t ∧
    FlagsNZVC s.sr t.sr false false (decide (s.nos = s.tos)) ((s.nos - s.tos).getLsbD 31) ∧
    t.pc = s.pc ∧ t.sp = s.sp ∧ t.cr = s.cr ∧ t.ar = trunc24 (s.sp + 1) ∧ t.dr = s.nos ∧ t.br = s.tos ∧
    t.mem = s.mem ∧ ControlKept s t 6

/-! ## Stack management (42_stack_management.md) -/

/-- POP (R231): SP alone. -/
def Obligations.PopResult : Prop :=
  encode .pop = 0x20000000#32 ∧
  ∀ s : State, exec .pop s =
    .next { s with sp := trunc24 (s.sp + 1), ticks := s.ticks + 1, microPos := s.microPos + 1 }

/-- POPF (R233): all 32 bits of SR from the popped cell; a popped bit 15 of 0 ends the run after the instruction, which
the step after it shows by its stop (log 4). -/
def Obligations.PopfResult : Prop :=
  encode .popf = 0x24000000#32 ∧
  (∀ s : State, Running s → decodeWith s.opcodeMap (fetchedWord s) = .ok .popf → s.tos.getLsbD 15 = false →
    HaltsAfter .popf s) ∧
  ∀ s : State, ∃ t, exec .popf s = .next t ∧ t.sr = s.tos ∧ t.sp = trunc24 (s.sp + 1) ∧
    t.pc = s.pc ∧ t.cr = s.cr ∧ t.ar = trunc24 s.sp ∧ t.dr = s.tos ∧ t.br = s.br ∧ t.mem = s.mem ∧ ControlKept s t 4

/-- INC (R234) and DEC (R235): all four flags. -/
def Obligations.IncDecResult : Prop :=
  encode .inc = 0x26000000#32 ∧ encode .dec = 0x28000000#32 ∧
  (∀ s : State, ∃ t, exec .inc s = .next t ∧ UnaryEffect s t (s.tos + 1) 4 ∧
    FlagsNZVC s.sr t.sr (decide (s.tos = 0xFFFFFFFF#32)) false (decide (s.tos + 1 = 0)) ((s.tos + 1).getLsbD 31)) ∧
  (∀ s : State, ∃ t, exec .dec s = .next t ∧ UnaryEffect s t (s.tos - 1) 4 ∧
    FlagsNZVC s.sr t.sr false false (decide (s.tos = 1)) ((s.tos - 1).getLsbD 31))

/-- SWAP (R236): the two top cells exchanged, no other cell, no flag, SP unchanged. -/
def Obligations.SwapResult : Prop :=
  encode .swap = 0x2A000000#32 ∧
  ∀ s : State, ∃ t, exec .swap s = .next t ∧
    t.mem.read s.tosAddr = s.nos ∧ t.mem.read s.nosAddr = s.tos ∧
    (∀ a, a ≠ s.tosAddr → a ≠ s.nosAddr → t.mem.read a = s.mem.read a) ∧ t.mem.init = s.mem.init ∧
    t.pc = s.pc ∧ t.sp = s.sp ∧ t.cr = s.cr ∧ t.ar = trunc24 (s.sp + 1) ∧ t.dr = s.tos ∧ t.sr = s.sr ∧ t.br = s.tos ∧
    ControlKept s t 10

/-- PUSHF (R232), DUP (R237) and PUSH (R238): one cell pushed, with all 32 bits of SR, TOS again, or the operand
zero-extended. That `exec` installs the operand in CR, in every state, is the model's choice (log 8). -/
def Obligations.PushResults : Prop :=
  encode .pushf = 0x22000000#32 ∧ encode .dup = 0x2C000000#32 ∧
  (∀ imm : Addr, encode (.push imm) = 0x80000000#32 ||| imm.setWidth 32) ∧
  (∀ s : State, ∃ t, exec .pushf s = .next t ∧ PushEffect s t s.sr 3 ∧ t.pc = s.pc ∧ t.cr = s.cr ∧
    (s.flagRUN = true → (t.mem.read s.pushAddr).getLsbD 15 = true)) ∧
  (∀ s : State, ∃ t, exec .dup s = .next t ∧ PushEffect s t s.tos 4 ∧ t.pc = s.pc ∧ t.cr = s.cr) ∧
  (∀ (s : State) (imm : Addr), ∃ t, exec (.push imm) s = .next t ∧ PushEffect s t (imm.setWidth 32) 3 ∧
    t.pc = s.pc ∧ t.cr = (s.loadOperand imm).cr)

/-- CALL (R239): the value PC holds in EXECUTE is pushed, then the target. That `exec` installs the operand in CR, in every
state, is the model's choice (log 8). -/
def Obligations.CallResult : Prop :=
  (∀ x : Addr, encode (.call x) = 0x84000000#32 ||| x.setWidth 32) ∧
  ∀ (s : State) (x : Addr), ∃ t, exec (.call x) s = .next t ∧ PushEffect s t s.pc 4 ∧
    t.pc = x.setWidth 32 ∧ t.cr = (s.loadOperand x).cr

/-- RET (R240): the popped cell, truncated, in PC. -/
def Obligations.RetResult : Prop :=
  encode .ret = 0x2E000000#32 ∧
  ∀ s : State, ∃ t, exec .ret s = .next t ∧ t.pc = trunc24 s.tos ∧ t.sp = trunc24 (s.sp + 1) ∧
    t.cr = s.cr ∧ t.ar = trunc24 s.sp ∧ t.dr = s.tos ∧ t.sr = s.sr ∧ t.br = s.br ∧ t.mem = s.mem ∧ ControlKept s t 4

/-! ## Control flow (43_control_flow.md) -/

/-- The eight jumps take their target exactly when the condition of R260 holds on SR (R261 to R268). JZ and JE have two opcode
bytes and one effect (30_encoding.md R91). That `exec` installs the operand in CR, in every state, is the model's choice
(log 8). -/
def Obligations.JumpResults : Prop :=
  (∀ x : Addr, encode (.jmp x) = 0x88000000#32 ||| x.setWidth 32 ∧ encode (.jz x) = 0x8C000000#32 ||| x.setWidth 32 ∧
    encode (.je x) = 0x90000000#32 ||| x.setWidth 32 ∧ encode (.jnz x) = 0x94000000#32 ||| x.setWidth 32 ∧
    encode (.jg x) = 0x98000000#32 ||| x.setWidth 32 ∧ encode (.jge x) = 0x9C000000#32 ||| x.setWidth 32 ∧
    encode (.jl x) = 0xA0000000#32 ||| x.setWidth 32 ∧ encode (.jle x) = 0xA4000000#32 ||| x.setWidth 32) ∧
  ∀ (s : State) (x : Addr),
    (∃ t, exec (.jmp x) s = .next t ∧ JumpEffect s t x true) ∧
    (∃ t, exec (.jz x) s = .next t ∧ JumpEffect s t x (s.sr.getLsbD 2)) ∧
    (∃ t, exec (.je x) s = .next t ∧ JumpEffect s t x (s.sr.getLsbD 2)) ∧
    (∃ t, exec (.jnz x) s = .next t ∧ JumpEffect s t x (!s.sr.getLsbD 2)) ∧
    (∃ t, exec (.jg x) s = .next t ∧ JumpEffect s t x (!s.sr.getLsbD 2 && !s.sr.getLsbD 3)) ∧
    (∃ t, exec (.jge x) s = .next t ∧ JumpEffect s t x (!s.sr.getLsbD 3)) ∧
    (∃ t, exec (.jl x) s = .next t ∧ JumpEffect s t x (s.sr.getLsbD 3)) ∧
    (∃ t, exec (.jle x) s = .next t ∧ JumpEffect s t x (s.sr.getLsbD 3 || s.sr.getLsbD 2)) ∧
    exec (.jz x) s = exec (.je x) s

/-! ## Memory instructions (44_memory.md) -/

/-- LD (R281): the cell that the low 24 bits of TOS name replaces TOS. -/
def Obligations.LdResult : Prop :=
  encode .ld = 0x30000000#32 ∧
  ∀ s : State, ∃ t, exec .ld s = .next t ∧
    Stores s.mem t.mem s.tosAddr (s.mem.read (trunc24 s.tos).toNat) ∧
    t.pc = s.pc ∧ t.sp = s.sp ∧ t.cr = s.cr ∧ t.ar = trunc24 s.sp ∧ t.dr = s.mem.read (trunc24 s.tos).toNat ∧
    t.sr = s.sr ∧ t.br = s.br ∧ ControlKept s t 6

/-- ST (R282): NOS to the cell that the low 24 bits of TOS name; both are popped. -/
def Obligations.StResult : Prop :=
  encode .st = 0x32000000#32 ∧
  ∀ s : State, ∃ t, exec .st s = .next t ∧ Stores s.mem t.mem (trunc24 s.tos).toNat s.nos ∧
    t.pc = s.pc ∧ t.sp = trunc24 (s.sp + 2) ∧ t.cr = s.cr ∧ t.ar = trunc24 s.tos ∧ t.dr = s.nos ∧ t.sr = s.sr ∧
    t.br = trunc24 s.tos ∧ ControlKept s t 8

/-! ## Device control (45_device_control.md) -/

/-- SET (R291) and UNSET (R292): bit 31 of the cell the operand names, no flag. That `exec` installs the operand in CR, in every
state, is the model's choice (log 8). -/
def Obligations.SetUnsetResult : Prop :=
  (∀ d : Addr, encode (.set d) = 0xA8000000#32 ||| d.setWidth 32) ∧
  (∀ d : Addr, encode (.unset d) = 0xAC000000#32 ||| d.setWidth 32) ∧
  ∀ (s : State) (d : Addr),
    (∃ t, exec (.set d) s = .next t ∧
      Stores s.mem t.mem d.toNat (s.mem.read d.toNat ||| 0x80000000#32) ∧
      t.pc = s.pc ∧ t.sp = s.sp ∧ t.cr = (s.loadOperand d).cr ∧ t.ar = d.setWidth 32 ∧
      t.dr = s.mem.read d.toNat ||| 0x80000000#32 ∧ t.sr = s.sr ∧ t.br = 0x80000000#32 ∧ ControlKept s t 6) ∧
    (∃ t, exec (.unset d) s = .next t ∧
      Stores s.mem t.mem d.toNat (s.mem.read d.toNat &&& 0x7FFFFFFF#32) ∧
      t.pc = s.pc ∧ t.sp = s.sp ∧ t.cr = (s.loadOperand d).cr ∧ t.ar = d.setWidth 32 ∧
      t.dr = s.mem.read d.toNat &&& 0x7FFFFFFF#32 ∧ t.sr = s.sr ∧ t.br = 0x80000000#32 ∧ ControlKept s t 5)

/-- CHECK (R293): Z and N from bit 31 of the cell the operand names, no write. That `exec` installs the operand in CR, in every
state, is the model's choice (log 8). -/
def Obligations.CheckResult : Prop :=
  (∀ d : Addr, encode (.check d) = 0xB0000000#32 ||| d.setWidth 32) ∧
  ∀ (s : State) (d : Addr), ∃ t, exec (.check d) s = .next t ∧
    FlagsNZ s.sr t.sr (!(s.mem.read d.toNat).getLsbD 31) ((s.mem.read d.toNat).getLsbD 31) ∧
    t.pc = s.pc ∧ t.sp = s.sp ∧ t.cr = (s.loadOperand d).cr ∧ t.ar = d.setWidth 32 ∧ t.dr = s.mem.read d.toNat ∧
    t.br = 0x80000000#32 ∧ t.mem = s.mem ∧ ControlKept s t 4

/-! ## The privileged group (46_privileged.md) -/

/-- NOP (R301) changes nothing; HALT (R302), EI (R303) and DI (R304) write one bit of SR each, and HALT ends the run, which
the step after it shows by its stop (log 4). -/
def Obligations.NopHaltEiDiResult : Prop :=
  encode .nop = 0x02000000#32 ∧ encode .halt = 0x04000000#32 ∧ encode .ei = 0x34000000#32 ∧
  encode .di = 0x36000000#32 ∧
  (∀ s : State, Running s → decodeWith s.opcodeMap (fetchedWord s) = .ok .halt → HaltsAfter .halt s) ∧
  ∀ s : State,
    exec .nop s = .next s ∧
    (∃ t, exec .halt s = .next t ∧ OneBit s.sr t.sr 15 false ∧ StatusEffect s t 3 ∧ t.dr = s.dr ∧
      t.br = 0x00008000#32) ∧
    (∃ t, exec .ei s = .next t ∧ OneBit s.sr t.sr 14 true ∧ StatusEffect s t 5 ∧ t.dr = ~~~ t.sr ∧
      t.br = 0x00004000#32) ∧
    (∃ t, exec .di s = .next t ∧ OneBit s.sr t.sr 14 false ∧ StatusEffect s t 4 ∧ t.dr = s.dr ∧
      t.br = 0x00004000#32)

/-- IRET (R305): SR from TOS and PC from NOS, two cells popped; it is POPF followed by RET; a popped bit 15 of 0 ends the run
after it, which the step after that shows by its stop (log 4). -/
def Obligations.IretResult : Prop :=
  encode .iret = 0x38000000#32 ∧
  (∀ s : State, ∃ t, exec .iret s = .next t ∧ t.sr = s.tos ∧ t.pc = trunc24 s.nos ∧ t.sp = trunc24 (s.sp + 2) ∧
    t.cr = s.cr ∧ t.ar = trunc24 (s.sp + 1) ∧ t.dr = s.nos ∧ t.br = s.br ∧ t.mem = s.mem ∧ ControlKept s t 8) ∧
  (∀ s t u : State, exec .popf s = .next t → exec .ret t = .next u → exec .iret s = .next u) ∧
  (∀ s : State, Running s → decodeWith s.opcodeMap (fetchedWord s) = .ok .iret → s.tos.getLsbD 15 = false →
    HaltsAfter .iret s)

/-! ## The control unit -/

/-- A step runs the decoded instruction: in a state that runs, if the cell PC names decodes to `i`, step is `exec i` on the
state FETCH leaves, then the completion, unless the instruction took a fault (40_datapath.md R183). -/
def Obligations.StepRunsDecoded : Prop :=
  ∀ (s : State) (i : Instr), Running s → decodeWith s.opcodeMap (fetchedWord s) = .ok i → i.wellFormed = true →
    step s = match exec i (fetchedState s) with
      | .next t => .next (if t.faultStatus = none then completedState t else t)
      | .fault f => .fault f
      | .refused r => .refused r

/-- The net effect of FETCH (R185), and its four microinstructions as the words 95_test_vectors.md 2.4 gives (30_encoding.md R95).
After FETCH and DECODE the operand field of CR is the instruction's operand (R84, R87). That `exec` installs the operand there is
the model's choice (log 8); the third clause says that in a cycle it changes nothing. So is the micro-position 0 that FETCH leaves
(log 22). -/
def Obligations.FetchEffect : Prop :=
  fetchProgram.map MicroInstr.pack = [0x01E00000A40#43, 0x00000000001#43, 0x01400008020#43, 0x01E40020008#43] ∧
  (∀ s : State, s.fetch =
    { s with pc := trunc24 (s.pc + 1), cr := s.mem.read (trunc24 s.pc).toNat, dr := s.mem.read (trunc24 s.pc).toNat
             ar := trunc24 s.pc, br := trunc24 s.pc, ticks := s.ticks + 4, phase := .decode, microPos := 0 }) ∧
  (∀ (s : State) (i : Instr), decodeWith s.opcodeMap (fetchedWord s) = .ok i → i.mnemonic.format = .a →
    (fetchedState s).loadOperand i.operand = fetchedState s)

/-- A word that decodes to nothing takes UNKNOWN_OPCODE after FETCH and before EXECUTE, with this state (60_exceptions.md
R405). The phase and the micro-position of the faulted state are the model's choice (log 12). -/
def Obligations.UnknownOpcodeCycle : Prop :=
  ∀ s : State, Running s → (∀ i, decodeWith s.opcodeMap (fetchedWord s) ≠ .ok i) →
    step s = .next { s with
      pc := trunc24 (s.pc + 1), cr := fetchedWord s, dr := fetchedWord s, ar := trunc24 s.pc, br := trunc24 s.pc
      ticks := s.ticks + 4, phase := .decode, microPos := 0, faultStatus := some .unknownOpcode }

/-- A run ends in exactly one of two ways, and an ended run takes no step; one that has not ended always takes one
(10_state.md R39, 40_datapath.md R183); an instruction that clears RUN completes first (70_reset_and_hazards.md R472). How an ended
run is shown, by the stops runFaulted and runHalted, is logs 3 and 4; that a step tests RUN as at the top of a cycle in every
state, one inside a cycle too, is the model's choice (log 2). -/
def Obligations.EndedRunsStop : Prop :=
  (∀ (s : State) (k : FaultKind), s.faultStatus = some k → step s = .fault (.runFaulted k)) ∧
  (∀ s : State, s.faultStatus = none → s.flagRUN = false → step s = .fault .runHalted) ∧
  (∀ s : State, Running s → ∃ t, step s = .next t) ∧
  (∀ (s u : State) (i : Instr), Running s → decodeWith s.opcodeMap (fetchedWord s) = .ok i →
    exec i (fetchedState s) = .next u → u.faultStatus = none → u.flagRUN = false → HaltsAfter i s)

/-- Only the DIV transfer of `div` with the divisor 0 faults in EXECUTE; FETCH never faults; the one fault of DECODE is
UNKNOWN_OPCODE (40_datapath.md R192). -/
def Obligations.OnlyDivFaults : Prop :=
  (∀ s : State, s.fetch.faultStatus = s.faultStatus) ∧
  (∀ (i : Instr) (s : State), ∃ t, exec i s = .next t ∧
    t.faultStatus = if i = .div ∧ s.tos = 0 then some .divisionByZero else s.faultStatus) ∧
  (∀ s t : State, Running s → step s = .next t → ∀ k, t.faultStatus = some k →
    (k = .unknownOpcode ∧ ∀ i, decodeWith s.opcodeMap (fetchedWord s) ≠ .ok i) ∨
    (k = .divisionByZero ∧ decodeWith s.opcodeMap (fetchedWord s) = .ok .div ∧ s.tos = 0))

/-- The tick table of 70_reset_and_hazards.md R473, for every instruction and for a word that decodes to none. -/
def Obligations.TickTable : Prop :=
  (∀ (s : State) (i : Instr), Running s → decodeWith s.opcodeMap (fetchedWord s) = .ok i →
    ∃ t, step s = .next t ∧ t.ticks = s.ticks + tickCost i s) ∧
  (∀ s : State, Running s → (∀ i, decodeWith s.opcodeMap (fetchedWord s) ≠ .ok i) →
    ∃ t, step s = .next t ∧ t.ticks = s.ticks + 4)

/-- The instruction counter counts completed instructions: one more at a step that took no fault, the same at one that did
(40_datapath.md R184, 60_exceptions.md R401). -/
def Obligations.InstructionCounter : Prop :=
  ∀ s t : State, Running s → step s = .next t →
    t.instructions = if t.faultStatus = none then s.instructions + 1 else s.instructions

/-- Who writes SR: a step that changes a condition flag ran an instruction of the lists of 10_state.md R29, C and V only by the
first list or by POPF or IRET; IE only EI, DI, POPF, IRET (R30); RUN only HALT, POPF, IRET (R31); a reserved bit only POPF or
IRET (R28). -/
def Obligations.StatusRegisterWriters : Prop :=
  ∀ (s t : State) (i : Instr), Running s → decodeWith s.opcodeMap (fetchedWord s) = .ok i → step s = .next t →
    ∀ k, t.sr.getLsbD k ≠ s.sr.getLsbD k →
      i ∈ [Instr.popf, .iret] ∨
      (k < 4 ∧ i ∈ [Instr.add, .sub, .mul, .div, .cmp, .inc, .dec, .neg]) ∨
      ((k = 2 ∨ k = 3) ∧ (i ∈ [Instr.and, .or, .not, .shl, .shr, .rol, .ror] ∨ ∃ d, i = .check d)) ∨
      (k = 14 ∧ i ∈ [Instr.ei, .di]) ∨ (k = 15 ∧ i = .halt)

/-- The parameters of 00_scope.md R10 never change in a run: SHIFT_FLAGS, OPCODE_MAP, MEM_INIT and the numbers of the attached
devices. -/
def Obligations.ParametersFixed : Prop :=
  ∀ s t : State, step s = .next t →
    t.shiftFlags = s.shiftFlags ∧ t.opcodeMap = s.opcodeMap ∧ t.mem.init = s.mem.init ∧
    t.devices.map Option.isSome = s.devices.map Option.isSome

/-- The finest grain agrees: from the top of a cycle, ticking one microinstruction at a time reaches the state that `step`
reaches (40_datapath.md R181 to R183). -/
def Obligations.TicksReachStep : Prop :=
  ∀ s t : State, s.phase = .fetch → s.microPos = 0 → step s = .next t → ∃ k, runTicks k s = .next t

/-! ## Reset and the invariant -/

/-- The state after reset: the values of 10_state.md R36 with the default parameters. PC = 0x20 is the model's choice (log 5), and
so are that no device is attached (log 6) and the micro-position 0 (log 22). -/
def Obligations.ResetValues : Prop :=
  State.reset.pc = 0x20#32 ∧ State.reset.sp = 0x00FFFFFF#32 ∧ State.reset.sr = 0x00008000#32 ∧
  State.reset.cr = 0 ∧ State.reset.ar = 0 ∧ State.reset.dr = 0 ∧ State.reset.br = 0 ∧
  (∀ a, State.reset.mem.read a = 0) ∧ State.reset.ticks = 0 ∧ State.reset.instructions = 0 ∧
  State.reset.phase = .fetch ∧ State.reset.microPos = 0 ∧ State.reset.faultStatus = none ∧ State.reset.devices = noDevices ∧
  State.reset.shiftFlags = .pre ∧ State.reset.opcodeMap = defaultOpcodeMap

/-- The invariant holds after reset. It rests on the reset PC of log 5 and the micro-position of log 22. -/
def Obligations.ResetHasInv : Prop := Inv State.reset

/-- Every step keeps the invariant (10_state.md R22, R23, R25; 40_datapath.md R191). That the micro-position is 0 before FETCH is
the model's choice (log 22). -/
def Obligations.StepKeepsInv : Prop :=
  ∀ s t : State, Inv s → step s = .next t → Inv t

/-! ## Devices (60_exceptions.md) -/

/-- A poll writes its buffer cells and bit 31 of its block's first word, and nothing else (R425; the two words of its own block
as log 10). No device acts on the handler address of its block (R422), unless its buffer covers that cell (log 10). The polls of
a cycle run in ascending device number, each on the memory the one before it left (R423). -/
def Obligations.PollWithinContract : Prop :=
  (∀ (d : Device) (m : Memory), PollLegal d.number m (pollDevice d m).2 ∧ (pollDevice d m).1.number = d.number) ∧
  (∀ (d : Device) (m : Memory) (h : Addr), blockStatus d.number ∉ bufferCells m d.number →
    (pollDevice d (withHandler m d.number h)).1 = (pollDevice d m).1 ∧
    readyFlag (pollDevice d (withHandler m d.number h)).2 d.number = readyFlag (pollDevice d m).2 d.number ∧
    ∀ a, a ≠ blockStatus d.number →
      (pollDevice d (withHandler m d.number h)).2.read a = (pollDevice d m).2.read a) ∧
  (∀ (ds : DeviceSet) (m : Memory), (pollAll ds m).2 = polledBelow ds m 16 ∧
    ∀ n : Fin 16, (pollAll ds m).1[n.val] =
      ds[n.val].map (fun k => (pollDevice ⟨n, k⟩ (polledBelow ds m n.val)).1.kind))

/-- Nothing that a poll may do is shut out: every memory within the contract is the effect of a poll (R425, log 9, 10). -/
def Obligations.EveryLegalPoll : Prop :=
  ∀ (n : Fin 16) (m m' : Memory), m.wf = true → m'.wf = true → PollLegal n m m' →
    ∃ ready ws, pollEffect n ready ws m = m'

/-- The reference input device: with the flag at 0 and input pending it fills the buffer, big-endian, and sets the flag; else
it does nothing (R426). The cells of its own block and those beyond the bytes it delivers keep their value (log 10, 11). -/
def Obligations.InputDevicePoll : Prop :=
  ∀ (n : Fin 16) (pending : List Byte) (m : Memory),
    (readyFlag m n = true ∨ pending = [] → pollDevice ⟨n, .input pending⟩ m = (⟨n, .input pending⟩, m)) ∧
    (readyFlag m n = false → pending ≠ [] →
      ∀ k, k = min (transferSize m n) pending.length →
        ∃ m', pollDevice ⟨n, .input pending⟩ m = (⟨n, .input (pending.drop k)⟩, m') ∧ readyFlag m' n = true ∧
          (∀ j w, (packBytes (pending.take k))[j]? = some w →
            ∀ a, a = (bufferBase m n + j) % cellCount → a ≠ blockStatus n → a ≠ blockBuffer n → m'.read a = w) ∧
          (∀ a, a ≠ blockStatus n → (∀ j, j < (k + 3) / 4 → a ≠ (bufferBase m n + j) % cellCount) →
            m'.read a = m.read a))

/-- The reference output device: with the flag at 1 it takes the bytes of its buffer and clears the flag; else it does nothing
(R426, conflict C10). How many bytes it takes, none at transfer size 0, with the flag cleared all the same, is the model's choice
(log 11). -/
def Obligations.OutputDevicePoll : Prop :=
  ∀ (n : Fin 16) (sink : List Byte) (m : Memory),
    (readyFlag m n = false → pollDevice ⟨n, .output sink⟩ m = (⟨n, .output sink⟩, m)) ∧
    (readyFlag m n = true → ∃ bs m', pollDevice ⟨n, .output sink⟩ m = (⟨n, .output (sink ++ bs)⟩, m') ∧
      bs.length = transferSize m n ∧ readyFlag m' n = false ∧
      (∀ j, j < transferSize m n → bs[j]? =
        some ((m.read ((bufferBase m n + j / 4) % cellCount)).extractLsb' (24 - 8 * (j % 4)) 8)) ∧
      (∀ a, a ≠ blockStatus n → m'.read a = m.read a))

/-! ## The assembler and the loader -/

/-- Every operand value is reduced to 24 bits: the field is the value modulo 2^24, in the low 24 bits under the opcode byte
(30_encoding.md R85). -/
def Obligations.OperandTruncation : Prop :=
  ∀ (map : OpcodeMap) (syms : List (List Char × Nat)) (o : Operand),
    ((operandBits syms o).toNat : Int) = operandValue syms o % 2 ^ 24 ∧
    ∀ (m : Mnemonic) (line : Nat), m.format = .a →
      itemWords map syms (.instr m (some o) line) = [opcodeOf map m ++ operandBits syms o]

/-- Bytes are packed big-endian, four to a cell, the unused low bytes of the last cell 0 (20_memory.md R53). -/
def Obligations.BytePacking : Prop :=
  ∀ bs : List Byte, (packBytes bs).length = (bs.length + 3) / 4 ∧
    ∀ j < (packBytes bs).length, ∀ i < 4,
      (((packBytes bs)[j]?).getD 0).extractLsb' (24 - 8 * i) 8 = (bs[4 * j + i]?).getD 0

/-- The cells of a listing the generator writes come in strictly rising order, each below 2^24 (30_encoding.md R129, R132). -/
def Obligations.GeneratedCellsRise : Prop :=
  ∀ (map : OpcodeMap) (p : Program) (ls : List ListingLine), generate map p = .ok ls →
    ls.Pairwise (fun x y => x.addr < y.addr) ∧ ∀ l ∈ ls, l.addr < cellCount

/-- A line the generator writes matches the loader's grammar and reads back as the same cell (70_reset_and_hazards.md R458). -/
def Obligations.ListingLineReadsBack : Prop :=
  ∀ l : ListingLine, l.addr < cellCount → parseLine (renderLine l) = some (l.addr, l.entry, l.value)

/-- Loading a written listing gives the start state: PC at the entry cell, every listed cell its value, every other MEM_INIT
(R455 to R457). -/
def Obligations.ListingLoads : Prop :=
  ∀ (p : Params) (ls : List ListingLine) (entry : Nat), LoadableListing ls entry →
    ∃ mem, load p (renderListing ls) = .ok (State.launch p (BitVec.ofNat 24 entry) mem) ∧
      mem.init = p.memInit ∧ mem.wf = true ∧
      ∀ a, mem.read a = match ls.find? (fun l => l.addr == a) with
        | some l => l.value
        | none => p.memInit

/-- What a load leaves: every register, counter and status at its start value, and the memory in canonical form
(R455, 10_state.md R36). The micro-position 0 is the model's choice (log 22). -/
def Obligations.LoadStartState : Prop :=
  ∀ (p : Params) (listing : List Char) (s : State), load p listing = .ok s →
    s.pc.toNat < cellCount ∧ s.sp = p.spReset.setWidth 32 ∧ s.sr = 0x00008000#32 ∧
    s.cr = 0 ∧ s.ar = 0 ∧ s.dr = 0 ∧ s.br = 0 ∧ s.ticks = 0 ∧ s.instructions = 0 ∧ s.faultStatus = none ∧
    s.phase = .fetch ∧ s.microPos = 0 ∧ s.mem.wf = true ∧ s.mem.init = p.memInit ∧ s.devices = p.devices ∧
    Running s ∧ Inv s
end

