-- ==== Sys2Proof/Laws/Decode.lean ====
section
/-! SUPPORT. Laws of the decoder: what a successful decode means, and the parts of an instruction word (30_encoding.md R83, R84,
R87, R127). -/

namespace Sys2Proof

@[simp] theorem Mnemonic.mnemonic_toInstr (m : Mnemonic) (x : Addr) : (m.toInstr x).mnemonic = m := by cases m <;> rfl

/-- The operand of a format A instruction is the operand field (R84). -/
theorem Mnemonic.operand_toInstr_a {m : Mnemonic} (h : m.format = .a) (x : Addr) : (m.toInstr x).operand = x := by
  cases m <;> first | rfl | cases h

/-- A format N instruction has no operand (R82). -/
theorem Mnemonic.operand_toInstr_n {m : Mnemonic} (h : m.format = .n) (x : Addr) : (m.toInstr x).operand = 0 := by
  cases m <;> first | rfl | cases h

@[simp] theorem Instr.toInstr_mnemonic (i : Instr) : i.mnemonic.toInstr i.operand = i := by cases i <;> rfl

/-- A format N instruction is the same whatever the operand field (R90). -/
theorem Instr.toInstr_n {i : Instr} (h : i.mnemonic.format = .n) (x : Addr) : i.mnemonic.toInstr x = i := by
  cases i <;> first | rfl | cases h

/-- The key the opcode table is searched with (R87). -/
def decodeKey (w : Word) : Byte := if isAddressed w then opcodeByte w &&& 0xFC#8 else opcodeByte w

/-- The format of a word (R83). -/
def wordFormat (w : Word) : Format := if isAddressed w then .a else .n

/-- All that a decode can answer: the table's mnemonic with the operand field, or a rejection. -/
theorem decodeWith_eq (map : OpcodeMap) (w : Word) :
    decodeWith map w = match lookupOpcode map (wordFormat w) (decodeKey w) with
      | some m => .ok (m.toInstr (operandField w))
      | none => .error (.unassigned (opcodeByte w)) := by
  unfold decodeWith wordFormat decodeKey
  cases isAddressed w <;> rfl

/-- What a successful decode means (R87). -/
theorem decodeWith_ok_iff (map : OpcodeMap) (w : Word) (i : Instr) :
    decodeWith map w = .ok i ↔
      ∃ m, lookupOpcode map (wordFormat w) (decodeKey w) = some m ∧ i = m.toInstr (operandField w) := by
  rw [decodeWith_eq]
  cases lookupOpcode map (wordFormat w) (decodeKey w) with
  | none => simp
  | some m => simp [eq_comm]

/-- An entry that the table's search finds. -/
theorem lookupOpcode_some {map : OpcodeMap} {f : Format} {key : Byte} {m : Mnemonic}
    (h : lookupOpcode map f key = some m) : (m, key) ∈ map ∧ m.format = f := by
  induction map with
  | nil => cases h
  | cons e rest ih =>
    obtain ⟨k, b⟩ := e
    simp only [lookupOpcode] at h
    split at h
    · rename_i hc
      cases h
      exact ⟨by simp [hc.2], hc.1⟩
    · exact ⟨List.mem_cons_of_mem _ (ih h).1, (ih h).2⟩

/-- The opcode byte of a mnemonic that the map has is one of the map's. -/
theorem opcodeOf_mem {map : OpcodeMap} {m : Mnemonic} (h : m ∈ map.map (·.1)) : (m, opcodeOf map m) ∈ map := by
  induction map with
  | nil => cases h
  | cons e rest ih =>
    obtain ⟨k, b⟩ := e
    by_cases hk : k = m
    · simp [opcodeOf, hk]
    · have : m ∈ rest.map (·.1) := by
        rcases List.mem_cons.mp h with h | h
        · exact absurd h.symm hk
        · exact h
      simp only [opcodeOf, hk, if_false]
      exact List.mem_cons_of_mem _ (ih this)

/-! ## The parts of a word written from its parts (R127) -/

/-- Bit `j` of an opcode byte before a 24-bit field. -/
theorem getLsbD_word (b : Byte) (x : Addr) (j : Nat) :
    BitVec.getLsbD (w := 32) (b ++ x) j = if j < 24 then x.getLsbD j else b.getLsbD (j - 24) :=
  BitVec.getLsbD_append (x := b) (y := x) (i := j)

theorem opcodeByte_word (b : Byte) (x : Addr) : opcodeByte (b ++ x) = b := by
  apply BitVec.eq_of_getLsbD_eq
  intro j hj
  rw [opcodeByte, BitVec.getLsbD_extractLsb', getLsbD_word]
  simp [hj]

theorem operandField_word (b : Byte) (x : Addr) : operandField (b ++ x) = x := by
  apply BitVec.eq_of_getLsbD_eq
  intro j hj
  rw [operandField, BitVec.getLsbD_extractLsb', getLsbD_word]
  simp [hj]

theorem isAddressed_word (b : Byte) (x : Addr) : isAddressed (b ++ x) = b.getLsbD 7 := by
  rw [isAddressed, getLsbD_word]
  simp

end Sys2Proof
end

