-- ==== Sys2Proof/Laws/Memory.lean ====
section
/-! SUPPORT. Laws of the memory: read after write, and that every operation keeps the canonical form. -/

namespace Sys2Proof.Machine

theorem lookupCell_insertCell (a : Nat) (v : Word) (cs : List (Nat × Word)) (b : Nat) :
    lookupCell (insertCell a v cs) b = if b = a then some v else lookupCell cs b := by
  induction cs with
  | nil => simp [insertCell, lookupCell, eq_comm]
  | cons e rest ih =>
    obtain ⟨c, w⟩ := e
    simp only [insertCell]
    split
    · simp only [lookupCell, eq_comm]
    · split
      · subst a
        by_cases h : b = c
        · simp [lookupCell, h]
        · have : ¬ c = b := fun e => h e.symm
          simp [lookupCell, h, this]
      · by_cases h : b = a
        · subst b
          have : ¬ c = a := by omega
          simp [lookupCell, this, ih]
        · simp [lookupCell, ih, h]

theorem lookupCell_eraseCell (a : Nat) (cs : List (Nat × Word)) (b : Nat) :
    lookupCell (eraseCell a cs) b = if b = a then none else lookupCell cs b := by
  induction cs with
  | nil => simp [eraseCell, lookupCell]
  | cons e rest ih =>
    obtain ⟨c, w⟩ := e
    simp only [eraseCell] at *
    by_cases hc : c = a
    · subst c
      simp only [List.filter_cons, ne_eq, not_true_eq_false, decide_false, Bool.false_eq_true, if_false, ih]
      by_cases h : b = a
      · simp [h]
      · have : ¬ a = b := fun e => h e.symm
        simp [h, lookupCell, this]
    · simp only [List.filter_cons, ne_eq, hc, not_false_eq_true, decide_true, if_true, lookupCell, ih]
      by_cases h : b = a
      · subst b; simp [hc]
      · simp [h]

@[simp] theorem Memory.write_init (m : Memory) (a : Nat) (v : Word) : (m.write a v).init = m.init := rfl

/-- What a cell reads after a write: the value written, at the cell written; what it read before, elsewhere. -/
theorem Memory.read_write (m : Memory) (a : Nat) (v : Word) (b : Nat) :
    (m.write a v).read b = if b = a then v else m.read b := by
  unfold Memory.read Memory.write
  by_cases hv : v = m.init
  · simp only [hv, if_true, lookupCell_eraseCell]
    by_cases h : b = a <;> simp [h]
  · simp only [hv, if_false, lookupCell_insertCell]
    by_cases h : b = a <;> simp [h]

@[simp] theorem Memory.read_write_same (m : Memory) (a : Nat) (v : Word) : (m.write a v).read a = v := by
  simp [Memory.read_write]

theorem Memory.read_write_other (m : Memory) {a b : Nat} (v : Word) (h : b ≠ a) :
    (m.write a v).read b = m.read b := by
  simp [Memory.read_write, h]

@[simp] theorem Memory.read_blank (init : Word) (a : Nat) : (Memory.blank init).read a = init := rfl

/-! ## The canonical form -/

theorem Memory.wf_iff (m : Memory) :
    m.wf = true ↔ m.cells.Pairwise (fun x y => x.1 < y.1) ∧ ∀ e ∈ m.cells, e.1 < cellCount ∧ e.2 ≠ m.init := by
  simp [Memory.wf]

theorem mem_insertCell {a : Nat} {v : Word} {cs : List (Nat × Word)} {e : Nat × Word}
    (h : e ∈ insertCell a v cs) : e = (a, v) ∨ e ∈ cs := by
  induction cs with
  | nil => simpa [insertCell] using h
  | cons c rest ih =>
    obtain ⟨b, w⟩ := c
    simp only [insertCell] at h
    split at h
    · simpa using h
    · split at h
      · rcases List.mem_cons.mp h with h | h <;> simp [h]
      · rcases List.mem_cons.mp h with h | h
        · simp [h]
        · rcases ih h with h | h <;> simp [h]

theorem pairwise_insertCell {a : Nat} {v : Word} {cs : List (Nat × Word)}
    (h : cs.Pairwise (fun x y => x.1 < y.1)) : (insertCell a v cs).Pairwise (fun x y => x.1 < y.1) := by
  induction cs with
  | nil => simp [insertCell]
  | cons c rest ih =>
    obtain ⟨b, w⟩ := c
    obtain ⟨hb, hr⟩ := List.pairwise_cons.mp h
    simp only [insertCell]
    split
    · rename_i hab
      refine List.pairwise_cons.mpr ⟨?_, h⟩
      intro e he
      rcases List.mem_cons.mp he with rfl | he
      · exact hab
      · exact Nat.lt_trans hab (hb e he)
    · split
      · rename_i hab
        subst hab
        exact List.pairwise_cons.mpr ⟨hb, hr⟩
      · refine List.pairwise_cons.mpr ⟨?_, ih hr⟩
        intro e he
        rcases mem_insertCell he with rfl | he
        · show b < a
          omega
        · exact hb e he

/-- A write to an existing cell keeps the canonical form. -/
theorem Memory.wf_write {m : Memory} (h : m.wf = true) {a : Nat} (ha : a < cellCount) (v : Word) :
    (m.write a v).wf = true := by
  rw [Memory.wf_iff] at *
  obtain ⟨hp, hm⟩ := h
  unfold Memory.write
  by_cases hv : v = m.init
  · simp only [hv, if_true, eraseCell]
    exact ⟨hp.filter _, fun e he => hm e (List.mem_filter.mp he).1⟩
  · simp only [hv, if_false]
    refine ⟨pairwise_insertCell hp, fun e he => ?_⟩
    rcases mem_insertCell he with rfl | he
    · exact ⟨ha, hv⟩
    · exact hm e he

@[simp] theorem Memory.wf_blank (init : Word) : (Memory.blank init).wf = true := by
  simp [Memory.wf_iff, Memory.blank]

/-- READ of a cell index (20_memory.md R55). -/
theorem memRead_of_lt {m : Memory} {a : Word} (h : a.toNat < cellCount) : memRead m a = .ok (m.read a.toNat) := by
  simp [memRead, h]

/-- WRITE of a cell index (20_memory.md R55). -/
theorem memWrite_of_lt {m : Memory} {a v : Word} (h : a.toNat < cellCount) :
    memWrite m a v = .ok (m.write a.toNat v) := by
  simp [memWrite, h]

/-- All that a WRITE can do. -/
theorem memWrite_cases {m m' : Memory} {a v : Word} (h : memWrite m a v = .ok m') :
    a.toNat < cellCount ∧ m' = m.write a.toNat v := by
  unfold memWrite at h
  split at h
  · exact ⟨‹_›, by cases h; rfl⟩
  · cases h

/-- A WRITE keeps the canonical form. -/
theorem memWrite_wf {m m' : Memory} {a v : Word} (hm : m.wf = true) (h : memWrite m a v = .ok m') : m'.wf = true := by
  obtain ⟨ha, rfl⟩ := memWrite_cases h
  exact Memory.wf_write hm ha v

end Sys2Proof.Machine
end

