-- ==== Sys2Proof/Laws/Words.lean ====
section
/-! SUPPORT. Laws of the word helpers: truncation to 24 bits, masking to 32 bits, single bits, and the unbounded AND. -/

namespace Sys2Proof.Machine

/-! ## trunc24 -/

theorem trunc24_toNat (v : Word) : (trunc24 v).toNat = v.toNat % 2 ^ 24 := by
  have h : (16777215 : Nat) = 2 ^ 24 - 1 := by decide
  simp only [trunc24, BitVec.toNat_and, BitVec.toNat_ofNat]
  rw [show (16777215 : Nat) % 2 ^ 32 = 2 ^ 24 - 1 by decide, Nat.and_two_pow_sub_one_eq_mod]

theorem trunc24_lt (v : Word) : (trunc24 v).toNat < cellCount := by
  simp only [trunc24_toNat, cellCount]; omega

theorem trunc24_eq_self {v : Word} (h : v.toNat < cellCount) : trunc24 v = v := by
  apply BitVec.eq_of_toNat_eq
  simp only [trunc24_toNat, cellCount] at *
  omega

@[simp] theorem trunc24_trunc24 (v : Word) : trunc24 (trunc24 v) = trunc24 v :=
  trunc24_eq_self (trunc24_lt v)

@[simp] theorem trunc24_setWidth (a : Addr) : trunc24 (a.setWidth 32) = a.setWidth 32 := by
  apply trunc24_eq_self
  have := a.isLt
  simp only [BitVec.toNat_setWidth, cellCount]
  omega

/-- A truncated sum depends on the truncated summand only. -/
theorem trunc24_add_left (v w : Word) : trunc24 (trunc24 v + w) = trunc24 (v + w) := by
  apply BitVec.eq_of_toNat_eq
  simp only [trunc24_toNat, BitVec.toNat_add]
  omega

/-! ## mask32 -/

@[simp] theorem mask32_toNat (x : Word) : mask32 (x.toNat : Int) = x := by
  simp [mask32]

theorem mask32_add (a b : Int) : mask32 (a + b) = mask32 a + mask32 b := BitVec.ofInt_add a b

theorem mask32_mul (a b : Int) : mask32 (a * b) = mask32 a * mask32 b := BitVec.ofInt_mul a b

theorem mask32_neg (a : Int) : mask32 (-a) = -mask32 a := BitVec.ofInt_neg

theorem mask32_sub (a b : Int) : mask32 (a - b) = mask32 a - mask32 b := by
  rw [Int.sub_eq_add_neg, mask32_add, mask32_neg, BitVec.sub_eq_add_neg]

@[simp] theorem mask32_one : mask32 1 = 1 := by decide

@[simp] theorem mask32_zero : mask32 0 = 0 := by decide

/-- The unbounded complement masks to the 32-bit complement (00_scope.md R13). -/
theorem mask32_cpl (a : Int) : mask32 (-a - 1) = ~~~ mask32 a := by
  rw [mask32_sub, mask32_neg, mask32_one, BitVec.neg_eq_not_add]
  simp

/-! ## putBit -/

@[simp] theorem getLsbD_putBit (w : Word) (k j : Nat) (b : Bool) (hk : k < 32) :
    (putBit w k b).getLsbD j = if j = k then b else w.getLsbD j := by
  unfold putBit
  by_cases hj : j < 32
  · cases b <;> by_cases h : j = k <;> simp [h, hj, hk] <;> omega
  · have : ¬ j = k := by omega
    simp [this, BitVec.getLsbD_of_ge _ _ (Nat.le_of_not_lt hj)]

/-! ## intAnd -/

theorem testBit_xor_and (a b j : Nat) : (a ^^^ (a &&& b)).testBit j = (a.testBit j && !b.testBit j) := by
  simp only [Nat.testBit_xor, Nat.testBit_and]
  cases a.testBit j <;> cases b.testBit j <;> rfl

/-- The unbounded AND masks to the 32-bit AND (00_scope.md R13). -/
theorem mask32_intAnd (a b : Int) : mask32 (intAnd a b) = mask32 a &&& mask32 b := by
  have neg : ∀ n : Nat, mask32 (Int.negSucc n) = ~~~ BitVec.ofNat 32 n := by
    intro n
    have h := mask32_cpl (n : Int)
    rw [Int.negSucc_eq, show -((n : Int) + 1) = -(n : Int) - 1 by ring, h]
    simp [mask32]
  have pos : ∀ n : Nat, mask32 (Int.ofNat n) = BitVec.ofNat 32 n := by
    intro n; simp [mask32]
  apply BitVec.eq_of_getLsbD_eq
  intro j hj
  cases a with
  | ofNat a =>
    cases b with
    | ofNat b => simp only [intAnd, pos]; simp [hj]
    | negSucc b => simp only [intAnd, pos, neg]; simp [hj]; grind
  | negSucc a =>
    cases b with
    | ofNat b => simp only [intAnd, pos, neg]; simp [hj]; grind
    | negSucc b => simp only [intAnd, neg]; simp [hj]

/-- The unbounded AND of two negative integers is negative; of any others it is not (00_scope.md R13). -/
theorem intAnd_neg_iff (a b : Int) : intAnd a b < 0 ↔ a < 0 ∧ b < 0 := by
  cases a <;> cases b <;> simp [intAnd] <;> omega

end Sys2Proof.Machine
end

