-- ==== Sys2Proof/Laws/Devices.lean ====
section
/-! SUPPORT. Laws of the DEVICE-POLL phase: what the writes of a poll do to the memory (60_exceptions.md R425), and that every
poll keeps the memory's canonical form and what is attached; and the same of the loader's writes. -/

namespace Sys2Proof.Machine

theorem blockStatus_lt (n : Fin 16) : blockStatus n < cellCount := by
  have := n.isLt
  simp only [blockStatus, cellCount]; omega

theorem bufferCells_lt {m : Memory} {n : Fin 16} {a : Nat} (h : a ∈ bufferCells m n) : a < cellCount := by
  simp only [bufferCells, List.mem_map] at h
  obtain ⟨j, -, rfl⟩ := h
  exact Nat.mod_lt _ (by decide)

/-! ## The writes of a poll -/

@[simp] theorem writeBuffer_init (n : Fin 16) (ws : List (Nat × Word)) (m : Memory) :
    (writeBuffer n ws m).init = m.init := by
  induction ws generalizing m with
  | nil => rfl
  | cons e rest ih =>
    obtain ⟨a, w⟩ := e
    simp only [writeBuffer, ih]
    split <;> simp

/-- A cell that no buffer write names, or a word of the device's own block, reads as before. -/
theorem writeBuffer_read (n : Fin 16) (ws : List (Nat × Word)) (m : Memory) (b : Nat)
    (h : b ∉ ws.map (·.1) ∨ b = blockStatus n ∨ b = blockBuffer n) : (writeBuffer n ws m).read b = m.read b := by
  induction ws generalizing m with
  | nil => rfl
  | cons e rest ih =>
    obtain ⟨a, w⟩ := e
    have hrest : b ∉ rest.map (·.1) ∨ b = blockStatus n ∨ b = blockBuffer n := by
      rcases h with h | h
      · exact Or.inl (fun hb => h (by simp only [List.map_cons, List.mem_cons]; exact Or.inr hb))
      · exact Or.inr h
    simp only [writeBuffer, ih _ hrest]
    split
    · rfl
    · rename_i hown
      refine Memory.read_write_other _ _ (fun hba => ?_)
      subst hba
      rcases h with h | h
      · exact h (by simp)
      · exact hown h

theorem writeBuffer_wf (n : Fin 16) (ws : List (Nat × Word)) (m : Memory) (hm : m.wf = true)
    (h : ∀ e ∈ ws, e.1 < cellCount) : (writeBuffer n ws m).wf = true := by
  induction ws generalizing m with
  | nil => exact hm
  | cons e rest ih =>
    obtain ⟨a, w⟩ := e
    simp only [writeBuffer]
    refine ih _ ?_ (fun e he => h e (List.mem_cons_of_mem _ he))
    split
    · exact hm
    · exact Memory.wf_write hm (h (a, w) List.mem_cons_self) w

@[simp] theorem writeReady_init (n : Fin 16) (r : Bool) (m : Memory) : (writeReady n r m).init = m.init := rfl

theorem writeReady_read (n : Fin 16) (r : Bool) (m : Memory) (b : Nat) :
    (writeReady n r m).read b = if b = blockStatus n then putBit (m.read (blockStatus n)) 31 r else m.read b := by
  simp [writeReady, Memory.read_write]

theorem writeReady_wf (n : Fin 16) (r : Bool) (m : Memory) (hm : m.wf = true) : (writeReady n r m).wf = true :=
  Memory.wf_write hm (blockStatus_lt n) _

@[simp] theorem pollEffect_init (n : Fin 16) (r : Bool) (ws : List Word) (m : Memory) :
    (pollEffect n r ws m).init = m.init := by
  simp [pollEffect]

theorem pollEffect_wf (n : Fin 16) (r : Bool) (ws : List Word) (m : Memory) (hm : m.wf = true) :
    (pollEffect n r ws m).wf = true := by
  refine writeReady_wf _ _ _ (writeBuffer_wf _ _ _ hm (fun e he => ?_))
  exact bufferCells_lt (List.of_mem_zip he).1

/-! ## One device, all devices -/

/-- All that one poll does to the memory: nothing, or the effect of a poll (60_exceptions.md R425). -/
theorem pollDevice_mem (d : Device) (m : Memory) :
    (pollDevice d m).2 = m ∨ ∃ r ws, (pollDevice d m).2 = pollEffect d.number r ws m := by
  obtain ⟨n, k⟩ := d
  cases k with
  | input pending =>
    simp only [pollDevice, pollInput]
    split
    · exact Or.inr ⟨_, _, rfl⟩
    · exact Or.inl rfl
  | output sink =>
    simp only [pollDevice, pollOutput]
    split
    · exact Or.inr ⟨_, _, rfl⟩
    · exact Or.inl rfl
  | host st => exact Or.inr ⟨_, _, rfl⟩

@[simp] theorem pollDevice_number (d : Device) (m : Memory) : (pollDevice d m).1.number = d.number := rfl

@[simp] theorem pollDevice_init (d : Device) (m : Memory) : (pollDevice d m).2.init = m.init := by
  rcases pollDevice_mem d m with h | ⟨r, ws, h⟩ <;> rw [h]
  exact pollEffect_init _ _ _ _

theorem pollDevice_wf (d : Device) (m : Memory) (hm : m.wf = true) : (pollDevice d m).2.wf = true := by
  rcases pollDevice_mem d m with h | ⟨r, ws, h⟩ <;> rw [h]
  · exact hm
  · exact pollEffect_wf _ _ _ _ hm

@[simp] theorem pollFrom_init (l : List (Option DeviceKind)) (n : Fin 16) (m : Memory) :
    (pollFrom n l m).2.init = m.init := by
  induction l generalizing n m with
  | nil => rfl
  | cons d rest ih => cases d <;> simp [pollFrom, ih]

theorem pollFrom_wf (l : List (Option DeviceKind)) (n : Fin 16) (m : Memory) (hm : m.wf = true) :
    (pollFrom n l m).2.wf = true := by
  induction l generalizing n m with
  | nil => exact hm
  | cons d rest ih =>
    cases d with
    | none => exact ih _ _ hm
    | some k => exact ih _ _ (pollDevice_wf _ m hm)

@[simp] theorem pollAll_init (ds : DeviceSet) (m : Memory) : (pollAll ds m).2.init = m.init := pollFrom_init _ _ _

theorem pollAll_wf (ds : DeviceSet) (m : Memory) (hm : m.wf = true) : (pollAll ds m).2.wf = true :=
  pollFrom_wf _ _ _ hm

@[simp] theorem pollAll_toList (ds : DeviceSet) (m : Memory) :
    (pollAll ds m).1.toList = (pollFrom 0 ds.toList m).1 := by
  simp [pollAll, Vector.toList]

theorem pollAll_attached (ds : DeviceSet) (m : Memory) :
    (pollAll ds m).1.map Option.isSome = ds.map Option.isSome := by
  apply Vector.toList_inj.mp
  simp only [Vector.toList_map, pollAll_toList, pollFrom_attached]

/-! ## The loader's writes -/

@[simp] theorem loadCells_init (m : Memory) (ls : List LoadedLine) : (loadCells m ls).init = m.init := by
  induction ls generalizing m with
  | nil => rfl
  | cons l rest ih =>
    obtain ⟨n, a, e, v⟩ := l
    simp [loadCells, ih]

theorem loadCells_wf (m : Memory) (ls : List LoadedLine) (hm : m.wf = true) (h : ∀ l ∈ ls, l.2.1 < cellCount) :
    (loadCells m ls).wf = true := by
  induction ls generalizing m with
  | nil => exact hm
  | cons l rest ih =>
    obtain ⟨n, a, e, v⟩ := l
    exact ih _ (Memory.wf_write hm (h _ List.mem_cons_self) v) (fun l hl => h l (List.mem_cons_of_mem _ hl))

end Sys2Proof.Machine
end

