-- ==== Sys2Proof/Laws/State.lean ====
section
/-! SUPPORT. The state record under each named update: one lemma per field, and the registers under the named masks. -/

namespace Sys2Proof.Machine

/-! ## raiseFault -/

@[simp] theorem raiseFault_pc (s : State) (k : FaultKind) : (s.raiseFault k).pc = s.pc := rfl
@[simp] theorem raiseFault_sp (s : State) (k : FaultKind) : (s.raiseFault k).sp = s.sp := rfl
@[simp] theorem raiseFault_cr (s : State) (k : FaultKind) : (s.raiseFault k).cr = s.cr := rfl
@[simp] theorem raiseFault_ar (s : State) (k : FaultKind) : (s.raiseFault k).ar = s.ar := rfl
@[simp] theorem raiseFault_dr (s : State) (k : FaultKind) : (s.raiseFault k).dr = s.dr := rfl
@[simp] theorem raiseFault_sr (s : State) (k : FaultKind) : (s.raiseFault k).sr = s.sr := rfl
@[simp] theorem raiseFault_br (s : State) (k : FaultKind) : (s.raiseFault k).br = s.br := rfl
@[simp] theorem raiseFault_mem (s : State) (k : FaultKind) : (s.raiseFault k).mem = s.mem := rfl
@[simp] theorem raiseFault_ticks (s : State) (k : FaultKind) : (s.raiseFault k).ticks = s.ticks := rfl
@[simp] theorem raiseFault_instructions (s : State) (k : FaultKind) : (s.raiseFault k).instructions = s.instructions := rfl
@[simp] theorem raiseFault_phase (s : State) (k : FaultKind) : (s.raiseFault k).phase = s.phase := rfl
@[simp] theorem raiseFault_microPos (s : State) (k : FaultKind) : (s.raiseFault k).microPos = s.microPos := rfl
@[simp] theorem raiseFault_faultStatus (s : State) (k : FaultKind) : (s.raiseFault k).faultStatus = some k := rfl
@[simp] theorem raiseFault_devices (s : State) (k : FaultKind) : (s.raiseFault k).devices = s.devices := rfl
@[simp] theorem raiseFault_shiftFlags (s : State) (k : FaultKind) : (s.raiseFault k).shiftFlags = s.shiftFlags := rfl
@[simp] theorem raiseFault_opcodeMap (s : State) (k : FaultKind) : (s.raiseFault k).opcodeMap = s.opcodeMap := rfl

/-! ## loadOperand -/

@[simp] theorem loadOperand_pc (s : State) (x : Addr) : (s.loadOperand x).pc = s.pc := rfl
@[simp] theorem loadOperand_sp (s : State) (x : Addr) : (s.loadOperand x).sp = s.sp := rfl
@[simp] theorem loadOperand_cr (s : State) (x : Addr) : (s.loadOperand x).cr = (s.cr &&& 0xFF000000#32) ||| x.setWidth 32 := rfl
@[simp] theorem loadOperand_ar (s : State) (x : Addr) : (s.loadOperand x).ar = s.ar := rfl
@[simp] theorem loadOperand_dr (s : State) (x : Addr) : (s.loadOperand x).dr = s.dr := rfl
@[simp] theorem loadOperand_sr (s : State) (x : Addr) : (s.loadOperand x).sr = s.sr := rfl
@[simp] theorem loadOperand_br (s : State) (x : Addr) : (s.loadOperand x).br = s.br := rfl
@[simp] theorem loadOperand_mem (s : State) (x : Addr) : (s.loadOperand x).mem = s.mem := rfl
@[simp] theorem loadOperand_ticks (s : State) (x : Addr) : (s.loadOperand x).ticks = s.ticks := rfl
@[simp] theorem loadOperand_instructions (s : State) (x : Addr) : (s.loadOperand x).instructions = s.instructions := rfl
@[simp] theorem loadOperand_phase (s : State) (x : Addr) : (s.loadOperand x).phase = s.phase := rfl
@[simp] theorem loadOperand_microPos (s : State) (x : Addr) : (s.loadOperand x).microPos = s.microPos := rfl
@[simp] theorem loadOperand_faultStatus (s : State) (x : Addr) : (s.loadOperand x).faultStatus = s.faultStatus := rfl
@[simp] theorem loadOperand_devices (s : State) (x : Addr) : (s.loadOperand x).devices = s.devices := rfl
@[simp] theorem loadOperand_shiftFlags (s : State) (x : Addr) : (s.loadOperand x).shiftFlags = s.shiftFlags := rfl
@[simp] theorem loadOperand_opcodeMap (s : State) (x : Addr) : (s.loadOperand x).opcodeMap = s.opcodeMap := rfl

/-! ## enterExecute -/

@[simp] theorem enterExecute_pc (s : State) : (s.enterExecute).pc = s.pc := rfl
@[simp] theorem enterExecute_sp (s : State) : (s.enterExecute).sp = s.sp := rfl
@[simp] theorem enterExecute_cr (s : State) : (s.enterExecute).cr = s.cr := rfl
@[simp] theorem enterExecute_ar (s : State) : (s.enterExecute).ar = s.ar := rfl
@[simp] theorem enterExecute_dr (s : State) : (s.enterExecute).dr = s.dr := rfl
@[simp] theorem enterExecute_sr (s : State) : (s.enterExecute).sr = s.sr := rfl
@[simp] theorem enterExecute_br (s : State) : (s.enterExecute).br = s.br := rfl
@[simp] theorem enterExecute_mem (s : State) : (s.enterExecute).mem = s.mem := rfl
@[simp] theorem enterExecute_ticks (s : State) : (s.enterExecute).ticks = s.ticks := rfl
@[simp] theorem enterExecute_instructions (s : State) : (s.enterExecute).instructions = s.instructions := rfl
@[simp] theorem enterExecute_phase (s : State) : (s.enterExecute).phase = .execute := rfl
@[simp] theorem enterExecute_microPos (s : State) : (s.enterExecute).microPos = 0 := rfl
@[simp] theorem enterExecute_faultStatus (s : State) : (s.enterExecute).faultStatus = s.faultStatus := rfl
@[simp] theorem enterExecute_devices (s : State) : (s.enterExecute).devices = s.devices := rfl
@[simp] theorem enterExecute_shiftFlags (s : State) : (s.enterExecute).shiftFlags = s.shiftFlags := rfl
@[simp] theorem enterExecute_opcodeMap (s : State) : (s.enterExecute).opcodeMap = s.opcodeMap := rfl

/-! ## devicePoll -/

@[simp] theorem devicePoll_pc (s : State) : (s.devicePoll).pc = s.pc := rfl
@[simp] theorem devicePoll_sp (s : State) : (s.devicePoll).sp = s.sp := rfl
@[simp] theorem devicePoll_cr (s : State) : (s.devicePoll).cr = s.cr := rfl
@[simp] theorem devicePoll_ar (s : State) : (s.devicePoll).ar = s.ar := rfl
@[simp] theorem devicePoll_dr (s : State) : (s.devicePoll).dr = s.dr := rfl
@[simp] theorem devicePoll_sr (s : State) : (s.devicePoll).sr = s.sr := rfl
@[simp] theorem devicePoll_br (s : State) : (s.devicePoll).br = s.br := rfl
@[simp] theorem devicePoll_mem (s : State) : (s.devicePoll).mem = (pollAll s.devices s.mem).2 := rfl
@[simp] theorem devicePoll_ticks (s : State) : (s.devicePoll).ticks = s.ticks := rfl
@[simp] theorem devicePoll_instructions (s : State) : (s.devicePoll).instructions = s.instructions := rfl
@[simp] theorem devicePoll_phase (s : State) : (s.devicePoll).phase = s.phase := rfl
@[simp] theorem devicePoll_microPos (s : State) : (s.devicePoll).microPos = s.microPos := rfl
@[simp] theorem devicePoll_faultStatus (s : State) : (s.devicePoll).faultStatus = s.faultStatus := rfl
@[simp] theorem devicePoll_devices (s : State) : (s.devicePoll).devices = (pollAll s.devices s.mem).1 := rfl
@[simp] theorem devicePoll_shiftFlags (s : State) : (s.devicePoll).shiftFlags = s.shiftFlags := rfl
@[simp] theorem devicePoll_opcodeMap (s : State) : (s.devicePoll).opcodeMap = s.opcodeMap := rfl

/-! ## complete -/

@[simp] theorem complete_pc (s : State) : (s.complete).pc = s.pc := rfl
@[simp] theorem complete_sp (s : State) : (s.complete).sp = s.sp := rfl
@[simp] theorem complete_cr (s : State) : (s.complete).cr = s.cr := rfl
@[simp] theorem complete_ar (s : State) : (s.complete).ar = s.ar := rfl
@[simp] theorem complete_dr (s : State) : (s.complete).dr = s.dr := rfl
@[simp] theorem complete_sr (s : State) : (s.complete).sr = s.sr := rfl
@[simp] theorem complete_br (s : State) : (s.complete).br = s.br := rfl
@[simp] theorem complete_mem (s : State) : (s.complete).mem = (pollAll s.devices s.mem).2 := rfl
@[simp] theorem complete_ticks (s : State) : (s.complete).ticks = s.ticks := rfl
@[simp] theorem complete_instructions (s : State) : (s.complete).instructions = s.instructions + 1 := rfl
@[simp] theorem complete_phase (s : State) : (s.complete).phase = .fetch := rfl
@[simp] theorem complete_microPos (s : State) : (s.complete).microPos = 0 := rfl
@[simp] theorem complete_faultStatus (s : State) : (s.complete).faultStatus = s.faultStatus := rfl
@[simp] theorem complete_devices (s : State) : (s.complete).devices = (pollAll s.devices s.mem).1 := rfl
@[simp] theorem complete_shiftFlags (s : State) : (s.complete).shiftFlags = s.shiftFlags := rfl
@[simp] theorem complete_opcodeMap (s : State) : (s.complete).opcodeMap = s.opcodeMap := rfl

/-! ## storeAtPc -/

@[simp] theorem storeAtPc_pc (s : State) (w : Word) : (storeAtPc s w).pc = s.pc := rfl
@[simp] theorem storeAtPc_sp (s : State) (w : Word) : (storeAtPc s w).sp = s.sp := rfl
@[simp] theorem storeAtPc_cr (s : State) (w : Word) : (storeAtPc s w).cr = s.cr := rfl
@[simp] theorem storeAtPc_ar (s : State) (w : Word) : (storeAtPc s w).ar = s.ar := rfl
@[simp] theorem storeAtPc_dr (s : State) (w : Word) : (storeAtPc s w).dr = s.dr := rfl
@[simp] theorem storeAtPc_sr (s : State) (w : Word) : (storeAtPc s w).sr = s.sr := rfl
@[simp] theorem storeAtPc_br (s : State) (w : Word) : (storeAtPc s w).br = s.br := rfl
@[simp] theorem storeAtPc_mem (s : State) (w : Word) : (storeAtPc s w).mem = s.mem.write (trunc24 s.pc).toNat w := rfl
@[simp] theorem storeAtPc_ticks (s : State) (w : Word) : (storeAtPc s w).ticks = s.ticks := rfl
@[simp] theorem storeAtPc_instructions (s : State) (w : Word) : (storeAtPc s w).instructions = s.instructions := rfl
@[simp] theorem storeAtPc_phase (s : State) (w : Word) : (storeAtPc s w).phase = s.phase := rfl
@[simp] theorem storeAtPc_microPos (s : State) (w : Word) : (storeAtPc s w).microPos = s.microPos := rfl
@[simp] theorem storeAtPc_faultStatus (s : State) (w : Word) : (storeAtPc s w).faultStatus = s.faultStatus := rfl
@[simp] theorem storeAtPc_devices (s : State) (w : Word) : (storeAtPc s w).devices = s.devices := rfl
@[simp] theorem storeAtPc_shiftFlags (s : State) (w : Word) : (storeAtPc s w).shiftFlags = s.shiftFlags := rfl
@[simp] theorem storeAtPc_opcodeMap (s : State) (w : Word) : (storeAtPc s w).opcodeMap = s.opcodeMap := rfl

/-! ## writeRegs -/

@[simp] theorem writeRegs_pc (s : State) (mask : BitVec 8) (v : Word) : (s.writeRegs mask v).pc = selected mask .pc v s.pc := rfl
@[simp] theorem writeRegs_sp (s : State) (mask : BitVec 8) (v : Word) : (s.writeRegs mask v).sp = selected mask .sp v s.sp := rfl
@[simp] theorem writeRegs_cr (s : State) (mask : BitVec 8) (v : Word) : (s.writeRegs mask v).cr = selected mask .cr v s.cr := rfl
@[simp] theorem writeRegs_ar (s : State) (mask : BitVec 8) (v : Word) : (s.writeRegs mask v).ar = selected mask .ar v s.ar := rfl
@[simp] theorem writeRegs_dr (s : State) (mask : BitVec 8) (v : Word) : (s.writeRegs mask v).dr = selected mask .dr v s.dr := rfl
@[simp] theorem writeRegs_sr (s : State) (mask : BitVec 8) (v : Word) : (s.writeRegs mask v).sr = selected mask .sr v s.sr := rfl
@[simp] theorem writeRegs_br (s : State) (mask : BitVec 8) (v : Word) : (s.writeRegs mask v).br = selected mask .br v s.br := rfl
@[simp] theorem writeRegs_mem (s : State) (mask : BitVec 8) (v : Word) : (s.writeRegs mask v).mem = s.mem := rfl
@[simp] theorem writeRegs_ticks (s : State) (mask : BitVec 8) (v : Word) : (s.writeRegs mask v).ticks = s.ticks := rfl
@[simp] theorem writeRegs_instructions (s : State) (mask : BitVec 8) (v : Word) : (s.writeRegs mask v).instructions = s.instructions := rfl
@[simp] theorem writeRegs_phase (s : State) (mask : BitVec 8) (v : Word) : (s.writeRegs mask v).phase = s.phase := rfl
@[simp] theorem writeRegs_microPos (s : State) (mask : BitVec 8) (v : Word) : (s.writeRegs mask v).microPos = s.microPos := rfl
@[simp] theorem writeRegs_faultStatus (s : State) (mask : BitVec 8) (v : Word) : (s.writeRegs mask v).faultStatus = s.faultStatus := rfl
@[simp] theorem writeRegs_devices (s : State) (mask : BitVec 8) (v : Word) : (s.writeRegs mask v).devices = s.devices := rfl
@[simp] theorem writeRegs_shiftFlags (s : State) (mask : BitVec 8) (v : Word) : (s.writeRegs mask v).shiftFlags = s.shiftFlags := rfl
@[simp] theorem writeRegs_opcodeMap (s : State) (mask : BitVec 8) (v : Word) : (s.writeRegs mask v).opcodeMap = s.opcodeMap := rfl

/-! ## Register masks (30_encoding.md R97) -/

@[simp] theorem gather_mNone (s : State) : gather s mNone = 0 := by simp [gather, contribution, mNone]

@[simp] theorem gather_mPC (s : State) : gather s mPC = s.pc := by
  simp [gather, contribution, mPC, Reg.mask, Reg.maskBit, State.reg]

@[simp] theorem gather_mSP (s : State) : gather s mSP = s.sp := by
  simp [gather, contribution, mSP, Reg.mask, Reg.maskBit, State.reg]

@[simp] theorem gather_mCR (s : State) : gather s mCR = s.cr := by
  simp [gather, contribution, mCR, Reg.mask, Reg.maskBit, State.reg]

@[simp] theorem gather_mAR (s : State) : gather s mAR = s.ar := by
  simp [gather, contribution, mAR, Reg.mask, Reg.maskBit, State.reg]

@[simp] theorem gather_mDR (s : State) : gather s mDR = s.dr := by
  simp [gather, contribution, mDR, Reg.mask, Reg.maskBit, State.reg]

@[simp] theorem gather_mSR (s : State) : gather s mSR = s.sr := by
  simp [gather, contribution, mSR, Reg.mask, Reg.maskBit, State.reg]

@[simp] theorem gather_mBR (s : State) : gather s mBR = s.br := by
  simp [gather, contribution, mBR, Reg.mask, Reg.maskBit, State.reg]

@[simp] theorem writeRegs_mNone (s : State) (v : Word) : s.writeRegs mNone v = s := by
  simp [State.writeRegs, selected, mNone]

@[simp] theorem writeRegs_mPC (s : State) (v : Word) : s.writeRegs mPC v = { s with pc := v } := by
  simp [State.writeRegs, selected, mPC, Reg.mask, Reg.maskBit]

@[simp] theorem writeRegs_mSP (s : State) (v : Word) : s.writeRegs mSP v = { s with sp := v } := by
  simp [State.writeRegs, selected, mSP, Reg.mask, Reg.maskBit]

@[simp] theorem writeRegs_mCR (s : State) (v : Word) : s.writeRegs mCR v = { s with cr := v } := by
  simp [State.writeRegs, selected, mCR, Reg.mask, Reg.maskBit]

@[simp] theorem writeRegs_mAR (s : State) (v : Word) : s.writeRegs mAR v = { s with ar := v } := by
  simp [State.writeRegs, selected, mAR, Reg.mask, Reg.maskBit]

@[simp] theorem writeRegs_mDR (s : State) (v : Word) : s.writeRegs mDR v = { s with dr := v } := by
  simp [State.writeRegs, selected, mDR, Reg.mask, Reg.maskBit]

@[simp] theorem writeRegs_mSR (s : State) (v : Word) : s.writeRegs mSR v = { s with sr := v } := by
  simp [State.writeRegs, selected, mSR, Reg.mask, Reg.maskBit]

@[simp] theorem writeRegs_mBR (s : State) (v : Word) : s.writeRegs mBR v = { s with br := v } := by
  simp [State.writeRegs, selected, mBR, Reg.mask, Reg.maskBit]

@[simp] theorem writeRegs_mAR_mBR (s : State) (v : Word) :
    s.writeRegs (mAR ||| mBR) v = { s with ar := v, br := v } := by
  simp [State.writeRegs, selected, mAR, mBR, Reg.mask, Reg.maskBit]

@[simp] theorem writeRegs_mSP_mAR (s : State) (v : Word) :
    s.writeRegs (mSP ||| mAR) v = { s with sp := v, ar := v } := by
  simp [State.writeRegs, selected, mSP, mAR, Reg.mask, Reg.maskBit]

/-- Mask bit 7 names no register: it contributes 0 (30_encoding.md R97). -/
theorem gather_bit7 (s : State) : gather s 0x80 = 0 := by simp [gather, contribution, Reg.maskBit]

/-- Mask bit 7 names no register: it writes nothing (30_encoding.md R97). -/
theorem writeRegs_bit7 (s : State) (v : Word) : s.writeRegs 0x80 v = s := by
  simp [State.writeRegs, selected, Reg.maskBit]

end Sys2Proof.Machine
end

