-- ==== Sys2Proof/Laws/Micro.lean ====
section
/-! SUPPORT. What each microinstruction of the microprograms does to the state (40_datapath.md R189, R190), and what a run of
them does. -/

namespace Sys2Proof.Machine

/-! ## The ALU on a code built from its parts (30_encoding.md R98) -/

@[simp] theorem leftTransform_aluCode (op : AluOp) (l r : Transform) : leftTransform (aluCode op l r) = l := by
  cases op <;> cases l <;> cases r <;> decide

@[simp] theorem rightTransform_aluCode (op : AluOp) (l r : Transform) : rightTransform (aluCode op l r) = r := by
  cases op <;> cases l <;> cases r <;> decide

@[simp] theorem opOf_aluCode (op : AluOp) (l r : Transform) :
    AluOp.ofCode ((aluCode op l r).extractLsb' 0 2) = op := by
  cases op <;> cases l <;> cases r <;> decide

/-- `compute` on a code built from its parts. -/
theorem aluCompute_aluCode (x y : Word) (op : AluOp) (l r : Transform) :
    aluCompute x y (aluCode op l r) =
      match aluResult op (applyTransform l x.toNat) (applyTransform r y.toNat) with
      | .ok res => .ok (mask32 res, aluFlags (applyTransform l x.toNat) (applyTransform r y.toNat) res)
      | .error k => .error k := by
  cases h : aluResult op (applyTransform l x.toNat) (applyTransform r y.toNat) <;>
    simp only [aluCompute, leftTransform_aluCode, rightTransform_aluCode, opOf_aluCode, h]

/-! ## The commutator's named codes (40_datapath.md R171, R172) -/

theorem laneStage_PASS (v : Word) (c : BitVec 10) (h : c.extractLsb' 0 4 = 0xA#4) : laneStage v c = v := by
  have bit : ∀ k, k < 4 → c.getLsbD k = (0xA#4).getLsbD k := by
    intro k hk
    rw [← h]; simp [hk]
  have lanes : laneStage v c = (v &&& 0x0000FFFF#32) ||| ((v >>> 16) <<< 16) := by
    simp only [laneStage, bit 0 (by omega), bit 1 (by omega), bit 2 (by omega), bit 3 (by omega)]
    simp
  have lo : ∀ k, k < 32 → (65535#32).getLsbD k = decide (k < 16) := by decide
  rw [lanes]
  apply BitVec.eq_of_getLsbD_eq
  intro j hj
  simp only [BitVec.getLsbD_or, BitVec.getLsbD_and, BitVec.getLsbD_shiftLeft, BitVec.getLsbD_ushiftRight, lo j hj]
  by_cases h16 : j < 16
  · simp [h16]
  · simp [h16, hj, show 16 + (j - 16) = j by omega]

/-- The commutator code has the lanes of PASS or CUTB and no shift, or a shift; what it outputs. -/
theorem commutate_PASS (v : Word) : commutate v commPASS = .ok v := by
  have h : shiftSelector commPASS = 0 := by decide
  simp [commutate, h, laneStage_PASS v commPASS (by decide)]

theorem commutate_PASS_NZ (v : Word) : commutate v (commPASS ||| gateNZ) = .ok v := by
  have h : shiftSelector (commPASS ||| gateNZ) = 0 := by decide
  simp [commutate, h, laneStage_PASS v (commPASS ||| gateNZ) (by decide)]

theorem commutate_PASS_NZVC (v : Word) : commutate v (commPASS ||| gateNZVC) = .ok v := by
  have h : shiftSelector (commPASS ||| gateNZVC) = 0 := by decide
  simp [commutate, h, laneStage_PASS v (commPASS ||| gateNZVC) (by decide)]

theorem commutate_CUTB (v : Word) : commutate v commCUTB = .ok (trunc24 v) := by
  have h : shiftSelector commCUTB = 0 := by decide
  unfold commutate
  rw [h]
  simp [laneStage, commCUTB]

theorem commutate_HTOL (v : Word) : commutate v commHTOL = .ok (v >>> 16) := by
  have h : shiftSelector commHTOL = 0 := by decide
  unfold commutate
  rw [h]
  simp [laneStage, commHTOL]

theorem commutate_SHL (v : Word) : commutate v commSHL = .ok (v <<< 1) := by
  have h : shiftSelector commSHL = 1 := by decide
  simp [commutate, h]

theorem commutate_SHR (v : Word) : commutate v commSHR = .ok (v >>> 1) := by
  have h : shiftSelector commSHR = 2 := by decide
  simp [commutate, h]

theorem commutate_ROL (v : Word) : commutate v commROL = .ok ((v <<< 1) ||| (v >>> 31)) := by
  have h : shiftSelector commROL = 3 := by decide
  simp [commutate, h]

theorem commutate_ROR (v : Word) : commutate v commROR = .ok ((v >>> 1) ||| ((v &&& 1) <<< 31)) := by
  have h : shiftSelector commROR = 4 := by decide
  simp [commutate, h]

theorem commutate_SHL_NZ (v : Word) : commutate v (commSHL ||| gateNZ) = .ok (v <<< 1) := by
  have h : shiftSelector (commSHL ||| gateNZ) = 1 := by decide
  simp [commutate, h]

theorem commutate_SHR_NZ (v : Word) : commutate v (commSHR ||| gateNZ) = .ok (v >>> 1) := by
  have h : shiftSelector (commSHR ||| gateNZ) = 2 := by decide
  simp [commutate, h]

theorem commutate_ROL_NZ (v : Word) : commutate v (commROL ||| gateNZ) = .ok ((v <<< 1) ||| (v >>> 31)) := by
  have h : shiftSelector (commROL ||| gateNZ) = 3 := by decide
  simp [commutate, h]

theorem commutate_ROR_NZ (v : Word) :
    commutate v (commROR ||| gateNZ) = .ok ((v >>> 1) ||| ((v &&& 1) <<< 31)) := by
  have h : shiftSelector (commROR ||| gateNZ) = 4 := by decide
  simp [commutate, h]

/-! ## The commit sets (40_datapath.md R175) -/

/-- SR after the commit set {NZ,V,C}. -/
def commitNZVC (f : AluFlags) (sr : Word) : Word := commitC f (commitV f (commitNZ f sr))

/-- The three gates of a code, from its upper field (30_encoding.md R99). -/
theorem gates_of {c : BitVec 10} {g : BitVec 3} (h : c.extractLsb' 7 3 = g) :
    c.getLsbD 7 = g.getLsbD 0 ∧ c.getLsbD 8 = g.getLsbD 1 ∧ c.getLsbD 9 = g.getLsbD 2 := by
  subst h; simp

theorem commitFlags_none (c : BitVec 10) (f : AluFlags) (sr : Word) (h : c.extractLsb' 7 3 = 0#3) :
    commitFlags c f sr = sr := by
  obtain ⟨h7, h8, h9⟩ := gates_of h
  simp only [commitFlags, h7, h8, h9]; simp

theorem commitFlags_NZ (c : BitVec 10) (f : AluFlags) (sr : Word) (h : c.extractLsb' 7 3 = 1#3) :
    commitFlags c f sr = commitNZ f sr := by
  obtain ⟨h7, h8, h9⟩ := gates_of h
  simp only [commitFlags, h7, h8, h9]; simp

theorem commitFlags_NZVC (c : BitVec 10) (f : AluFlags) (sr : Word) (h : c.extractLsb' 7 3 = 7#3) :
    commitFlags c f sr = commitNZVC f sr := by
  obtain ⟨h7, h8, h9⟩ := gates_of h
  simp only [commitFlags, commitNZVC, h7, h8, h9]; simp

theorem getLsbD_commitNZ (f : AluFlags) (sr : Word) (k : Nat) :
    (commitNZ f sr).getLsbD k = if k = 3 then f.n else if k = 2 then f.z else sr.getLsbD k := by
  simp [commitNZ]

theorem getLsbD_commitNZVC (f : AluFlags) (sr : Word) (k : Nat) :
    (commitNZVC f sr).getLsbD k =
      if k = 0 then f.c else if k = 1 then f.v else if k = 3 then f.n else if k = 2 then f.z else sr.getLsbD k := by
  simp [commitNZVC, commitC, commitV, commitNZ]

/-! ## Transfers -/

/-- A transfer whose ALU operation and commutator code give a result (40_datapath.md R177). -/
theorem dataPath_xfer {s : State} {tgt lhs rhs : BitVec 8} {op : AluOp} {l r : Transform} {comm : BitVec 10}
    {res : Int} {out : Word}
    (hr : aluResult op (applyTransform l (gather s lhs).toNat) (applyTransform r (gather s rhs).toNat) = .ok res)
    (ho : commutate (mask32 res) comm = .ok out) :
    dataPath (xfer tgt op l lhs r rhs comm) s =
      .ok (State.writeRegs
        { s with sr := commitFlags comm (aluFlags (applyTransform l (gather s lhs).toNat)
            (applyTransform r (gather s rhs).toNat) res) s.sr } tgt out) := by
  simp [dataPath, xfer, transfer, aluCompute_aluCode, hr, commutatorApply, ho]

/-- A move that commits no flag. -/
theorem dataPath_move {s : State} {tgt src : BitVec 8} {comm : BitVec 10} {out : Word}
    (ho : commutate (gather s src) comm = .ok out) (hc : comm.extractLsb' 7 3 = 0#3) :
    dataPath (move tgt src comm) s = .ok (s.writeRegs tgt out) := by
  have h : applyTransform .id ((gather s src).toNat : Int) + applyTransform .id ((gather s mNone).toNat : Int)
      = (gather s src).toNat := by simp [applyTransform]
  rw [move, dataPath_xfer (res := ((gather s src).toNat : Int)) (by simp only [aluResult, h]) (by simpa using ho),
    commitFlags_none _ _ _ hc]

/-- READ, when AR names a cell (40_datapath.md R178). -/
theorem dataPath_uREAD {s : State} (h : s.ar.toNat < cellCount) :
    dataPath uREAD s = .ok { s with dr := s.mem.read s.ar.toNat } := by
  simp [dataPath, uREAD, MicroInstr.shiftAssigned, readCell, memRead_of_lt h]

/-- WRITE, when AR names a cell (40_datapath.md R178). -/
theorem dataPath_uWRITE {s : State} (h : s.ar.toNat < cellCount) :
    dataPath uWRITE s = .ok { s with mem := s.mem.write s.ar.toNat s.dr } := by
  simp [dataPath, uWRITE, MicroInstr.shiftAssigned, writeCell, memWrite_of_lt h]

/-! ## The idioms (40_datapath.md R189) -/

@[simp] theorem dataPath_uArSp (s : State) : dataPath uArSp s = .ok { s with ar := trunc24 s.sp } := by
  rw [uArSp, dataPath_move (commutate_CUTB _) (by decide)]; simp

@[simp] theorem dataPath_uBrDr (s : State) : dataPath uBrDr s = .ok { s with br := s.dr } := by
  rw [uBrDr, dataPath_move (commutate_PASS _) (by decide)]; simp

@[simp] theorem dataPath_uDrBr (s : State) : dataPath uDrBr s = .ok { s with dr := s.br } := by
  rw [uDrBr, dataPath_move (commutate_PASS _) (by decide)]; simp

@[simp] theorem dataPath_uPcCr (s : State) : dataPath uPcCr s = .ok { s with pc := trunc24 s.cr } := by
  rw [uPcCr, dataPath_move (commutate_CUTB _) (by decide)]; simp

@[simp] theorem dataPath_uArCr (s : State) : dataPath uArCr s = .ok { s with ar := trunc24 s.cr } := by
  rw [uArCr, dataPath_move (commutate_CUTB _) (by decide)]; simp

@[simp] theorem dataPath_uPcDr (s : State) : dataPath uPcDr s = .ok { s with pc := trunc24 s.dr } := by
  rw [uPcDr, dataPath_move (commutate_CUTB _) (by decide)]; simp

/-- The sum of an incremented register and nothing. -/
theorem addInc (s : State) (m : BitVec 8) :
    aluResult .add (applyTransform .inc (gather s m).toNat) (applyTransform .id (gather s mNone).toNat) =
      .ok (((gather s m).toNat : Int) + 1) := by
  simp [aluResult, applyTransform]

theorem mask32_toNat_add_one (w : Word) : mask32 ((w.toNat : Int) + 1) = w + 1 := by
  simp [mask32_add]

@[simp] theorem dataPath_uArSp1 (s : State) : dataPath uArSp1 s = .ok { s with ar := trunc24 (s.sp + 1) } := by
  rw [uArSp1, dataPath_xfer (addInc s mSP) (commutate_CUTB _), commitFlags_none _ _ _ (by decide)]
  simp [mask32_toNat_add_one]

@[simp] theorem dataPath_uSpInc1 (s : State) : dataPath uSpInc1 s = .ok { s with sp := trunc24 (s.sp + 1) } := by
  rw [uSpInc1, dataPath_xfer (addInc s mSP) (commutate_CUTB _), commitFlags_none _ _ _ (by decide)]
  simp [mask32_toNat_add_one]

@[simp] theorem dataPath_uSpInc2 (s : State) : dataPath uSpInc2 s = .ok { s with sp := trunc24 (s.sp + 2) } := by
  have h : aluResult .add (applyTransform .inc (gather s mSP).toNat) (applyTransform .inc (gather s mNone).toNat) =
      .ok ((s.sp.toNat : Int) + 2) := by
    simp [aluResult, applyTransform]; ring
  rw [uSpInc2, dataPath_xfer h (commutate_CUTB _), commitFlags_none _ _ _ (by decide)]
  simp [mask32_add, show mask32 2 = 2#32 by decide]

@[simp] theorem dataPath_uSpDec (s : State) :
    dataPath uSpDec s = .ok { s with sp := trunc24 (s.sp - 1), ar := trunc24 (s.sp - 1) } := by
  have h : aluResult .add (applyTransform .id (gather s mSP).toNat) (applyTransform .cpl (gather s mNone).toNat) =
      .ok ((s.sp.toNat : Int) - 1) := by
    simp [aluResult, applyTransform]; ring
  rw [uSpDec, dataPath_xfer h (commutate_CUTB _), commitFlags_none _ _ _ (by decide)]
  simp [mask32_sub]

@[simp] theorem dataPath_uBit31 (s : State) : dataPath uBit31 s = .ok { s with br := 0x80000000#32 } := by
  rw [uBit31, dataPath_xfer (addInc s mNone) (commutate_ROR _), commitFlags_none _ _ _ (by decide)]
  simp

@[simp] theorem dataPath_brHtol (s : State) : dataPath (move mBR mBR commHTOL) s = .ok { s with br := s.br >>> 16 } := by
  rw [dataPath_move (commutate_HTOL _) (by decide)]; simp

@[simp] theorem dataPath_brShr (s : State) : dataPath (move mBR mBR commSHR) s = .ok { s with br := s.br >>> 1 } := by
  rw [dataPath_move (commutate_SHR _) (by decide)]; simp

/-! ## The other moves of 40_datapath.md R185 and R190 -/

@[simp] theorem dataPath_f1 (s : State) : dataPath (move (mAR ||| mBR) mPC commCUTB) s =
    .ok { s with ar := trunc24 s.pc, br := trunc24 s.pc } := by
  rw [dataPath_move (commutate_CUTB _) (by decide)]; simp

@[simp] theorem dataPath_f3 (s : State) : dataPath (move mCR mDR commPASS) s = .ok { s with cr := s.dr } := by
  rw [dataPath_move (commutate_PASS _) (by decide)]; simp

@[simp] theorem dataPath_f4 (s : State) : dataPath (xfer mPC .add .inc mBR .id mNone commCUTB) s =
    .ok { s with pc := trunc24 (s.br + 1) } := by
  rw [dataPath_xfer (addInc s mBR) (commutate_CUTB _), commitFlags_none _ _ _ (by decide)]
  simp [mask32_toNat_add_one]

@[simp] theorem dataPath_drSr (s : State) : dataPath (move mDR mSR commPASS) s = .ok { s with dr := s.sr } := by
  rw [dataPath_move (commutate_PASS _) (by decide)]; simp

@[simp] theorem dataPath_srDr (s : State) : dataPath (move mSR mDR commPASS) s = .ok { s with sr := s.dr } := by
  rw [dataPath_move (commutate_PASS _) (by decide)]; simp

@[simp] theorem dataPath_drCr (s : State) : dataPath (move mDR mCR commCUTB) s = .ok { s with dr := trunc24 s.cr } := by
  rw [dataPath_move (commutate_CUTB _) (by decide)]; simp

@[simp] theorem dataPath_drPc (s : State) : dataPath (move mDR mPC commPASS) s = .ok { s with dr := s.pc } := by
  rw [dataPath_move (commutate_PASS _) (by decide)]; simp

@[simp] theorem dataPath_arDr (s : State) : dataPath (move mAR mDR commCUTB) s = .ok { s with ar := trunc24 s.dr } := by
  rw [dataPath_move (commutate_CUTB _) (by decide)]; simp

@[simp] theorem dataPath_brDrCut (s : State) : dataPath (move mBR mDR commCUTB) s = .ok { s with br := trunc24 s.dr } := by
  rw [dataPath_move (commutate_CUTB _) (by decide)]; simp

@[simp] theorem dataPath_arBr (s : State) : dataPath (move mAR mBR commCUTB) s = .ok { s with ar := trunc24 s.br } := by
  rw [dataPath_move (commutate_CUTB _) (by decide)]; simp

/-! ## The transfers that compute (40_datapath.md R190) -/

/-- The flags of a sum of transformed operands, or of another operation, as the ALU gives them. -/
theorem dataPath_combine_add (s : State) : dataPath (combine .add .id gateNZVC) s =
    .ok { s with dr := s.dr + s.br
                 sr := commitNZVC (aluFlags s.dr.toNat s.br.toNat ((s.dr.toNat : Int) + s.br.toNat)) s.sr } := by
  rw [combine, dataPath_xfer (res := (s.dr.toNat : Int) + s.br.toNat) (by simp [aluResult, applyTransform])
    (commutate_PASS_NZVC _), commitFlags_NZVC _ _ _ (by decide)]
  simp [applyTransform, mask32_add]

theorem dataPath_combine_sub (s : State) : dataPath (combine .add .neg gateNZVC) s =
    .ok { s with dr := s.dr - s.br
                 sr := commitNZVC (aluFlags s.dr.toNat (-(s.br.toNat : Int)) ((s.dr.toNat : Int) - s.br.toNat)) s.sr } := by
  rw [combine, dataPath_xfer (res := (s.dr.toNat : Int) - s.br.toNat) (by simp [aluResult, applyTransform]; ring)
    (commutate_PASS_NZVC _), commitFlags_NZVC _ _ _ (by decide)]
  simp [applyTransform, mask32_sub]

theorem dataPath_cmp (s : State) : dataPath (xfer mNone .add .id mDR .neg mBR (commPASS ||| gateNZVC)) s =
    .ok { s with
      sr := commitNZVC (aluFlags s.dr.toNat (-(s.br.toNat : Int)) ((s.dr.toNat : Int) - s.br.toNat)) s.sr } := by
  rw [dataPath_xfer (res := (s.dr.toNat : Int) - s.br.toNat) (by simp [aluResult, applyTransform]; ring)
    (commutate_PASS_NZVC _), commitFlags_NZVC _ _ _ (by decide)]
  simp [applyTransform]

theorem dataPath_combine_mul (s : State) : dataPath (combine .mul .id gateNZVC) s =
    .ok { s with dr := s.dr * s.br
                 sr := commitNZVC (aluFlags s.dr.toNat s.br.toNat ((s.dr.toNat : Int) * s.br.toNat)) s.sr } := by
  rw [combine, dataPath_xfer (res := (s.dr.toNat : Int) * s.br.toNat) (by simp [aluResult, applyTransform])
    (commutate_PASS_NZVC _), commitFlags_NZVC _ _ _ (by decide)]
  simp [applyTransform, mask32_mul]

/-- The unsigned quotient is the floor quotient of the unbounded values (40_datapath.md R167). -/
theorem mask32_fdiv (a b : Word) : mask32 (Int.fdiv (a.toNat : Int) b.toNat) = a / b := by
  apply BitVec.eq_of_toNat_eq
  rw [Int.fdiv_eq_ediv_of_nonneg _ (by omega), ← Int.natCast_ediv]
  have h := a.isLt
  have h2 : a.toNat / b.toNat ≤ a.toNat := Nat.div_le_self _ _
  have h3 : a.toNat / b.toNat < 2 ^ 32 := Nat.lt_of_le_of_lt h2 h
  simp only [mask32, BitVec.ofInt_natCast, BitVec.toNat_ofNat, BitVec.toNat_udiv, Nat.mod_eq_of_lt h3]

theorem dataPath_combine_div (s : State) (h : s.br ≠ 0) : dataPath (combine .div .id gateNZVC) s =
    .ok { s with dr := s.dr / s.br
                 sr := commitNZVC (aluFlags s.dr.toNat s.br.toNat (Int.fdiv (s.dr.toNat : Int) s.br.toNat)) s.sr } := by
  have h0 : s.br.toNat ≠ 0 := fun e => h (BitVec.eq_of_toNat_eq (by simpa using e))
  rw [combine, dataPath_xfer (res := Int.fdiv (s.dr.toNat : Int) s.br.toNat)
    (by simp [aluResult, applyTransform, h0]) (commutate_PASS_NZVC _), commitFlags_NZVC _ _ _ (by decide)]
  simp [applyTransform, mask32_fdiv]

/-- The DIV transfer with a zero divisor (40_datapath.md R162). -/
theorem dataPath_combine_div_zero (s : State) (h : s.br = 0) :
    dataPath (combine .div .id gateNZVC) s = .error .divisionByZero := by
  simp [combine, dataPath, xfer, transfer, aluCompute_aluCode, aluResult, applyTransform, h]

theorem dataPath_combine_and (s : State) : dataPath (combine .and .id gateNZ) s =
    .ok { s with dr := s.dr &&& s.br
                 sr := commitNZ (aluFlags s.dr.toNat s.br.toNat (intAnd s.dr.toNat s.br.toNat)) s.sr } := by
  rw [combine, dataPath_xfer (res := intAnd s.dr.toNat s.br.toNat) (by simp [aluResult, applyTransform])
    (commutate_PASS_NZ _), commitFlags_NZ _ _ _ (by decide)]
  simp [applyTransform, mask32_intAnd]

@[simp] theorem dataPath_uDrNor (s : State) : dataPath uDrNor s = .ok { s with dr := ~~~ s.dr &&& ~~~ s.br } := by
  rw [uDrNor, dataPath_xfer (res := intAnd (-(s.dr.toNat : Int) - 1) (-(s.br.toNat : Int) - 1))
    (by simp [aluResult, applyTransform]) (commutate_PASS _), commitFlags_none _ _ _ (by decide)]
  simp [mask32_intAnd, mask32_cpl]

theorem notRes (s : State) : aluResult .add (applyTransform .cpl (gather s mDR).toNat)
    (applyTransform .id (gather s mNone).toNat) = .ok (-(s.dr.toNat : Int) - 1) := by
  simp [aluResult, applyTransform]

@[simp] theorem dataPath_uDrNotDr_none (s : State) : dataPath (uDrNotDr 0#10) s = .ok { s with dr := ~~~ s.dr } := by
  rw [uDrNotDr, show commPASS ||| 0#10 = commPASS by decide, dataPath_xfer (notRes s) (commutate_PASS _),
    commitFlags_none _ _ _ (by decide)]
  simp [mask32_cpl]

theorem dataPath_uDrNotDr_NZ (s : State) : dataPath (uDrNotDr gateNZ) s =
    .ok { s with dr := ~~~ s.dr
                 sr := commitNZ (aluFlags (-(s.dr.toNat : Int) - 1) 0 (-(s.dr.toNat : Int) - 1)) s.sr } := by
  rw [uDrNotDr, dataPath_xfer (notRes s) (commutate_PASS_NZ _), commitFlags_NZ _ _ _ (by decide)]
  simp [mask32_cpl, applyTransform]

theorem dataPath_neg (s : State) : dataPath (xfer mDR .add .neg mDR .id mNone (commPASS ||| gateNZVC)) s =
    .ok { s with dr := -s.dr
                 sr := commitNZVC (aluFlags (-(s.dr.toNat : Int)) 0 (-(s.dr.toNat : Int))) s.sr } := by
  rw [dataPath_xfer (res := -(s.dr.toNat : Int)) (by simp [aluResult, applyTransform])
    (commutate_PASS_NZVC _), commitFlags_NZVC _ _ _ (by decide)]
  simp [applyTransform, mask32_neg]

theorem dataPath_inc (s : State) : dataPath (xfer mDR .add .id mDR .inc mNone (commPASS ||| gateNZVC)) s =
    .ok { s with dr := s.dr + 1
                 sr := commitNZVC (aluFlags s.dr.toNat 1 ((s.dr.toNat : Int) + 1)) s.sr } := by
  rw [dataPath_xfer (res := (s.dr.toNat : Int) + 1) (by simp [aluResult, applyTransform])
    (commutate_PASS_NZVC _), commitFlags_NZVC _ _ _ (by decide)]
  simp [applyTransform, mask32_add]

theorem dataPath_dec (s : State) : dataPath (xfer mDR .add .id mDR .cpl mNone (commPASS ||| gateNZVC)) s =
    .ok { s with dr := s.dr - 1
                 sr := commitNZVC (aluFlags s.dr.toNat (-1) ((s.dr.toNat : Int) - 1)) s.sr } := by
  rw [dataPath_xfer (res := (s.dr.toNat : Int) - 1) (by simp [aluResult, applyTransform]; ring)
    (commutate_PASS_NZVC _), commitFlags_NZVC _ _ _ (by decide)]
  simp [applyTransform, mask32_sub]

/-- The shifting transfer that also commits N and Z: the flags are those of the value before the shift. -/
theorem dataPath_shiftNZ {s : State} {comm : BitVec 10} {out : Word} (ho : commutate s.dr comm = .ok out)
    (hc : comm.extractLsb' 7 3 = 1#3) :
    dataPath (move mDR mDR comm) s =
      .ok { s with dr := out, sr := commitNZ (aluFlags s.dr.toNat 0 s.dr.toNat) s.sr } := by
  rw [move, dataPath_xfer (res := (s.dr.toNat : Int)) (by simp [aluResult, applyTransform]) (by simpa using ho),
    commitFlags_NZ _ _ _ hc]
  simp [applyTransform]

/-- The shifting transfer that commits nothing. -/
theorem dataPath_shift {s : State} {comm : BitVec 10} {out : Word} (ho : commutate s.dr comm = .ok out)
    (hc : comm.extractLsb' 7 3 = 0#3) : dataPath (move mDR mDR comm) s = .ok { s with dr := out } := by
  rw [dataPath_move (by simpa using ho) hc]; simp

/-- The transfer that only commits N and Z of DR. -/
theorem dataPath_testDr (s : State) : dataPath (move mNone mDR (commPASS ||| gateNZ)) s =
    .ok { s with sr := commitNZ (aluFlags s.dr.toNat 0 s.dr.toNat) s.sr } := by
  rw [move, dataPath_xfer (res := (s.dr.toNat : Int)) (by simp [aluResult, applyTransform]) (commutate_PASS_NZ _),
    commitFlags_NZ _ _ _ (by decide)]
  simp [applyTransform]

@[simp] theorem dataPath_unset (s : State) : dataPath (xfer mDR .and .id mDR .cpl mBR commPASS) s =
    .ok { s with dr := s.dr &&& ~~~ s.br } := by
  rw [dataPath_xfer (res := intAnd s.dr.toNat (-(s.br.toNat : Int) - 1)) (by simp [aluResult, applyTransform])
    (commutate_PASS _), commitFlags_none _ _ _ (by decide)]
  simp [mask32_intAnd, mask32_cpl]

theorem dataPath_check (s : State) : dataPath (xfer mNone .and .id mDR .id mBR (commPASS ||| gateNZ)) s =
    .ok { s with sr := commitNZ (aluFlags s.dr.toNat s.br.toNat (intAnd s.dr.toNat s.br.toNat)) s.sr } := by
  rw [dataPath_xfer (res := intAnd s.dr.toNat s.br.toNat) (by simp [aluResult, applyTransform])
    (commutate_PASS_NZ _), commitFlags_NZ _ _ _ (by decide)]
  simp [applyTransform]

/-- The transfer that clears in SR the bits of BR (40_datapath.md R190, rows halt and di). -/
@[simp] theorem dataPath_uSrClear (s : State) : dataPath uSrClear s = .ok { s with sr := s.sr &&& ~~~ s.br } := by
  rw [uSrClear, dataPath_xfer (res := intAnd s.sr.toNat (-(s.br.toNat : Int) - 1)) (by simp [aluResult, applyTransform])
    (commutate_PASS _), commitFlags_none _ _ _ (by decide)]
  simp [mask32_intAnd, mask32_cpl]

/-- The two transfers that set in SR the bits of BR, by De Morgan through DR (40_datapath.md R190, row ei). -/
@[simp] theorem dataPath_drNorSr (s : State) : dataPath (xfer mDR .and .cpl mSR .cpl mBR commPASS) s =
    .ok { s with dr := ~~~ s.sr &&& ~~~ s.br } := by
  rw [dataPath_xfer (res := intAnd (-(s.sr.toNat : Int) - 1) (-(s.br.toNat : Int) - 1))
    (by simp [aluResult, applyTransform]) (commutate_PASS _), commitFlags_none _ _ _ (by decide)]
  simp [mask32_intAnd, mask32_cpl]

@[simp] theorem dataPath_srNotDr (s : State) : dataPath (xfer mSR .add .cpl mDR .id mNone commPASS) s =
    .ok { s with sr := ~~~ s.dr } := by
  rw [dataPath_xfer (notRes s) (commutate_PASS _), commitFlags_none _ _ _ (by decide)]
  simp [mask32_cpl]

/-! ## Runs (40_datapath.md R183; 60_exceptions.md R401) -/

@[simp] theorem runMicro_nil (s : State) : runMicro [] s = s := rfl

/-- A microinstruction that does not fault: one tick, one position, and the rest. -/
theorem runMicro_ok {m : MicroInstr} {rest : List MicroInstr} {s s' : State} (h : dataPath m s = .ok s') :
    runMicro (m :: rest) s = runMicro rest { s' with ticks := s'.ticks + 1, microPos := s'.microPos + 1 } := by
  simp [runMicro, h]

/-- A microinstruction that faults: one tick, the fault status, and nothing more. -/
theorem runMicro_error {m : MicroInstr} {rest : List MicroInstr} {s : State} {k : FaultKind}
    (h : dataPath m s = .error k) : runMicro (m :: rest) s = State.raiseFault { s with ticks := s.ticks + 1 } k := by
  simp [runMicro, h]

end Sys2Proof.Machine
end

