-- ==== Sys2Proof/Laws/Frames.lean ====
section
/-! SUPPORT. The frames of Safety.lean, of the operations that the microprograms share: a WRITE, and the two commit sets. -/

namespace Sys2Proof.Machine

/-- A write changes its cell alone. -/
theorem stores_write (m : Memory) (a : Nat) (v : Word) : Stores m (m.write a v) a v :=
  ⟨by simp, fun _ h => Memory.read_write_other m v h, rfl⟩

/-- The commit set {NZ,V,C} writes four bits of SR (40_datapath.md R175). -/
theorem commitNZVC_flags (f : AluFlags) (sr : Word) : FlagsNZVC sr (commitNZVC f sr) f.c f.v f.z f.n where
  c := by rw [getLsbD_commitNZVC]; simp
  v := by rw [getLsbD_commitNZVC]; simp
  z := by rw [getLsbD_commitNZVC]; simp
  n := by rw [getLsbD_commitNZVC]; simp
  others := by
    intro k hk
    have h : k ≠ 0 ∧ k ≠ 1 ∧ k ≠ 2 ∧ k ≠ 3 := by omega
    rw [getLsbD_commitNZVC]
    simp [h]

/-- The commit set {NZ} writes two bits of SR (40_datapath.md R175). -/
theorem commitNZ_flags (f : AluFlags) (sr : Word) : FlagsNZ sr (commitNZ f sr) f.z f.n where
  z := by rw [getLsbD_commitNZ]; simp
  n := by rw [getLsbD_commitNZ]; simp
  others := by intro k h2 h3; rw [getLsbD_commitNZ]; simp [h2, h3]


end Sys2Proof.Machine
end

