-- ==== Sys2Proof/Laws/PerInstr.lean ====
section
/-! SUPPORT. What is said of every instruction as syntax, one lemma per constructor: its well-formedness and the shape of its
word (30_encoding.md R81, R82, R84, R89, R90, R127). -/

namespace Sys2Proof.Laws.EncodedShape

/-- The word of the instruction: bit 31 tells the format, the submode bits of format A and bit 24 of format N are 0, and the
low 24 bits are the operand, 0 in format N. -/
def Statement (i : Instr) : Prop :=
  i.wellFormed = true ∧
  (encode i).getLsbD 31 = decide (i.mnemonic.format = .a) ∧
  (encode i).getLsbD 24 = false ∧
  (i.mnemonic.format = .a → (encode i).getLsbD 25 = false) ∧
  operandField (encode i) = i.operand ∧
  (i.mnemonic.format = .n → i.operand = 0)

/-- The shape of a word that is an opcode byte before an operand. -/
theorem of_byte (i : Instr) (b : Byte) (x : Addr) (h : encode i = b ++ x) (hx : i.operand = x)
    (h7 : b.getLsbD 7 = decide (i.mnemonic.format = .a)) (h0 : b.getLsbD 0 = false)
    (h1 : i.mnemonic.format = .a → b.getLsbD 1 = false) (hn : i.mnemonic.format = .n → x = 0) : Statement i := by
  refine ⟨rfl, ?_, ?_, ?_, ?_, ?_⟩
  · rw [h, ← h7, BitVec.getLsbD_append]; rfl
  · rw [h, ← h0, BitVec.getLsbD_append]; rfl
  · intro ha; rw [h, ← h1 ha, BitVec.getLsbD_append]; rfl
  · rw [h, hx]; exact BitVec.extractLsb'_append_eq_right
  · intro hf; rw [hx, hn hf]

theorem nop : Statement .nop := of_byte _ 0x02#8 0 rfl rfl rfl rfl (fun h => nomatch h) (fun _ => rfl)

theorem halt : Statement .halt := of_byte _ 0x04#8 0 rfl rfl rfl rfl (fun h => nomatch h) (fun _ => rfl)

theorem add : Statement .add := of_byte _ 0x06#8 0 rfl rfl rfl rfl (fun h => nomatch h) (fun _ => rfl)

theorem sub : Statement .sub := of_byte _ 0x08#8 0 rfl rfl rfl rfl (fun h => nomatch h) (fun _ => rfl)

theorem mul : Statement .mul := of_byte _ 0x0A#8 0 rfl rfl rfl rfl (fun h => nomatch h) (fun _ => rfl)

theorem div : Statement .div := of_byte _ 0x0C#8 0 rfl rfl rfl rfl (fun h => nomatch h) (fun _ => rfl)

theorem and : Statement .and := of_byte _ 0x0E#8 0 rfl rfl rfl rfl (fun h => nomatch h) (fun _ => rfl)

theorem or : Statement .or := of_byte _ 0x10#8 0 rfl rfl rfl rfl (fun h => nomatch h) (fun _ => rfl)

theorem not : Statement .not := of_byte _ 0x12#8 0 rfl rfl rfl rfl (fun h => nomatch h) (fun _ => rfl)

theorem neg : Statement .neg := of_byte _ 0x14#8 0 rfl rfl rfl rfl (fun h => nomatch h) (fun _ => rfl)

theorem shl : Statement .shl := of_byte _ 0x16#8 0 rfl rfl rfl rfl (fun h => nomatch h) (fun _ => rfl)

theorem shr : Statement .shr := of_byte _ 0x18#8 0 rfl rfl rfl rfl (fun h => nomatch h) (fun _ => rfl)

theorem rol : Statement .rol := of_byte _ 0x1A#8 0 rfl rfl rfl rfl (fun h => nomatch h) (fun _ => rfl)

theorem ror : Statement .ror := of_byte _ 0x1C#8 0 rfl rfl rfl rfl (fun h => nomatch h) (fun _ => rfl)

theorem cmp : Statement .cmp := of_byte _ 0x1E#8 0 rfl rfl rfl rfl (fun h => nomatch h) (fun _ => rfl)

theorem pop : Statement .pop := of_byte _ 0x20#8 0 rfl rfl rfl rfl (fun h => nomatch h) (fun _ => rfl)

theorem pushf : Statement .pushf := of_byte _ 0x22#8 0 rfl rfl rfl rfl (fun h => nomatch h) (fun _ => rfl)

theorem popf : Statement .popf := of_byte _ 0x24#8 0 rfl rfl rfl rfl (fun h => nomatch h) (fun _ => rfl)

theorem inc : Statement .inc := of_byte _ 0x26#8 0 rfl rfl rfl rfl (fun h => nomatch h) (fun _ => rfl)

theorem dec : Statement .dec := of_byte _ 0x28#8 0 rfl rfl rfl rfl (fun h => nomatch h) (fun _ => rfl)

theorem swap : Statement .swap := of_byte _ 0x2A#8 0 rfl rfl rfl rfl (fun h => nomatch h) (fun _ => rfl)

theorem dup : Statement .dup := of_byte _ 0x2C#8 0 rfl rfl rfl rfl (fun h => nomatch h) (fun _ => rfl)

theorem ret : Statement .ret := of_byte _ 0x2E#8 0 rfl rfl rfl rfl (fun h => nomatch h) (fun _ => rfl)

theorem ld : Statement .ld := of_byte _ 0x30#8 0 rfl rfl rfl rfl (fun h => nomatch h) (fun _ => rfl)

theorem st : Statement .st := of_byte _ 0x32#8 0 rfl rfl rfl rfl (fun h => nomatch h) (fun _ => rfl)

theorem ei : Statement .ei := of_byte _ 0x34#8 0 rfl rfl rfl rfl (fun h => nomatch h) (fun _ => rfl)

theorem di : Statement .di := of_byte _ 0x36#8 0 rfl rfl rfl rfl (fun h => nomatch h) (fun _ => rfl)

theorem iret : Statement .iret := of_byte _ 0x38#8 0 rfl rfl rfl rfl (fun h => nomatch h) (fun _ => rfl)

theorem push (x : Addr) : Statement (.push x) := of_byte _ 0x80#8 x rfl rfl rfl rfl (fun _ => rfl) (fun h => nomatch h)

theorem call (x : Addr) : Statement (.call x) := of_byte _ 0x84#8 x rfl rfl rfl rfl (fun _ => rfl) (fun h => nomatch h)

theorem jmp (x : Addr) : Statement (.jmp x) := of_byte _ 0x88#8 x rfl rfl rfl rfl (fun _ => rfl) (fun h => nomatch h)

theorem jz (x : Addr) : Statement (.jz x) := of_byte _ 0x8C#8 x rfl rfl rfl rfl (fun _ => rfl) (fun h => nomatch h)

theorem je (x : Addr) : Statement (.je x) := of_byte _ 0x90#8 x rfl rfl rfl rfl (fun _ => rfl) (fun h => nomatch h)

theorem jnz (x : Addr) : Statement (.jnz x) := of_byte _ 0x94#8 x rfl rfl rfl rfl (fun _ => rfl) (fun h => nomatch h)

theorem jg (x : Addr) : Statement (.jg x) := of_byte _ 0x98#8 x rfl rfl rfl rfl (fun _ => rfl) (fun h => nomatch h)

theorem jge (x : Addr) : Statement (.jge x) := of_byte _ 0x9C#8 x rfl rfl rfl rfl (fun _ => rfl) (fun h => nomatch h)

theorem jl (x : Addr) : Statement (.jl x) := of_byte _ 0xA0#8 x rfl rfl rfl rfl (fun _ => rfl) (fun h => nomatch h)

theorem jle (x : Addr) : Statement (.jle x) := of_byte _ 0xA4#8 x rfl rfl rfl rfl (fun _ => rfl) (fun h => nomatch h)

theorem set (x : Addr) : Statement (.set x) := of_byte _ 0xA8#8 x rfl rfl rfl rfl (fun _ => rfl) (fun h => nomatch h)

theorem unset (x : Addr) : Statement (.unset x) := of_byte _ 0xAC#8 x rfl rfl rfl rfl (fun _ => rfl) (fun h => nomatch h)

theorem check (x : Addr) : Statement (.check x) := of_byte _ 0xB0#8 x rfl rfl rfl rfl (fun _ => rfl) (fun h => nomatch h)

end Sys2Proof.Laws.EncodedShape
end

