-- ==== Sys2Proof/Laws/Runs.lean ====
section
/-! SUPPORT. What the shared stretches of the microprograms do when run: reading one or two stack cells, FETCH, the two
sequences of `iret`, and the operand form of format A (40_datapath.md R185, R190). -/

namespace Sys2Proof.Machine

/-! ## Reads and writes of the stack cells -/

@[simp] theorem trunc24_toNat_lt (v : Word) : (trunc24 v).toNat < cellCount := trunc24_lt v

/-- AR=SP; READ, then the rest: DR is TOS (00_scope.md R15). -/
theorem runMicro_readTop (rest : List MicroInstr) (s : State) :
    runMicro (readTop ++ rest) s =
      runMicro rest { s with ar := trunc24 s.sp, dr := s.tos, ticks := s.ticks + 2, microPos := s.microPos + 2 } := by
  simp [readTop, runMicro, dataPath_uREAD, State.tos, State.tosAddr]

/-- AR=SP; READ; BR=DR; AR=SP+1; READ, then the rest: BR is TOS and DR is NOS (00_scope.md R15). -/
theorem runMicro_readPair (rest : List MicroInstr) (s : State) :
    runMicro (readPair ++ rest) s =
      runMicro rest { s with ar := trunc24 (s.sp + 1), br := s.tos, dr := s.nos
                             ticks := s.ticks + 5, microPos := s.microPos + 5 } := by
  simp [readPair, runMicro, dataPath_uREAD, State.tos, State.tosAddr, State.nos, State.nosAddr]

/-- WRITE; SP+1, at the end of a binary operation. -/
theorem runMicro_writePop (s : State) (h : s.ar.toNat < cellCount) :
    runMicro [uWRITE, uSpInc1] s =
      { s with mem := s.mem.write s.ar.toNat s.dr, sp := trunc24 (s.sp + 1)
               ticks := s.ticks + 2, microPos := s.microPos + 2 } := by
  simp [runMicro, dataPath_uWRITE h]

/-- WRITE, at the end of a unary operation. -/
theorem runMicro_write (s : State) (h : s.ar.toNat < cellCount) :
    runMicro [uWRITE] s =
      { s with mem := s.mem.write s.ar.toNat s.dr, ticks := s.ticks + 1, microPos := s.microPos + 1 } := by
  simp [runMicro, dataPath_uWRITE h]

/-! ## The single bits BIT15 and BIT14 (40_datapath.md R189) -/

/-- BIT15, then the rest: BR is 0x00008000. -/
theorem runMicro_bit15 (rest : List MicroInstr) (s : State) :
    runMicro (bit15Program ++ rest) s =
      runMicro rest { s with br := 0x00008000#32, ticks := s.ticks + 2, microPos := s.microPos + 2 } := by
  have h : 0x80000000#32 >>> 16 = 0x00008000#32 := by decide
  rw [bit15Program, List.cons_append, List.cons_append, List.nil_append, runMicro_ok (dataPath_uBit31 s),
    runMicro_ok (dataPath_brHtol _)]
  simp only [h]

/-- BIT14, then the rest: BR is 0x00004000. -/
theorem runMicro_bit14 (rest : List MicroInstr) (s : State) :
    runMicro (bit14Program ++ rest) s =
      runMicro rest { s with br := 0x00004000#32, ticks := s.ticks + 3, microPos := s.microPos + 3 } := by
  have h1 : 0x80000000#32 >>> 1 = 0x40000000#32 := by decide
  have h2 : 0x40000000#32 >>> 16 = 0x00004000#32 := by decide
  rw [bit14Program, List.cons_append, List.cons_append, List.cons_append, List.nil_append,
    runMicro_ok (dataPath_uBit31 s), runMicro_ok (dataPath_brShr _), runMicro_ok (dataPath_brHtol _)]
  simp only [h1, h2]

/-! ## FETCH (40_datapath.md R185) -/

/-- All that FETCH does: four ticks; the cell PC names in CR and DR, its index in AR and BR, PC past it. -/
theorem fetch_eq (s : State) :
    s.fetch =
      { s with pc := trunc24 (s.pc + 1), cr := s.mem.read (trunc24 s.pc).toNat, ar := trunc24 s.pc
               dr := s.mem.read (trunc24 s.pc).toNat, br := trunc24 s.pc, ticks := s.ticks + 4
               phase := .decode, microPos := 0 } := by
  simp [State.fetch, fetchProgram, runMicro, dataPath_uREAD, trunc24_add_left]

/-! ## The operand form of format A (30_encoding.md R84) -/

/-- The operand of a command register that holds it, through CUTB (30_encoding.md R84). -/
@[simp] theorem trunc24_operand (w : Word) (x : Addr) :
    trunc24 ((w &&& 0xFF000000#32) ||| x.setWidth 32) = x.setWidth 32 := by
  apply BitVec.eq_of_getLsbD_eq
  intro j hj
  have hi : ∀ k, k < 32 → (0xFF000000#32).getLsbD k = decide (24 ≤ k) := by decide
  have lo : ∀ k, k < 32 → (0x00FFFFFF#32).getLsbD k = decide (k < 24) := by decide
  simp only [trunc24, BitVec.getLsbD_and, BitVec.getLsbD_or, BitVec.getLsbD_setWidth, hi j hj, lo j hj]
  by_cases h : j < 24
  · simp [h, hj]
  · have : x.getLsbD j = false := BitVec.getLsbD_of_ge _ _ (by omega)
    simp [h, this]

/-- After FETCH and DECODE of an instruction whose operand is the command register's low 24 bits, installing the operand
changes nothing (log 8). -/
theorem loadOperand_self (s : State) (x : Addr) (h : operandField s.cr = x) : s.loadOperand x = s := by
  have hcr : (s.cr &&& 0xFF000000#32) ||| x.setWidth 32 = s.cr := by
    subst h
    apply BitVec.eq_of_getLsbD_eq
    intro j hj
    have hi : ∀ k, k < 32 → (0xFF000000#32).getLsbD k = decide (24 ≤ k) := by decide
    simp only [operandField, BitVec.getLsbD_and, BitVec.getLsbD_or, BitVec.getLsbD_setWidth, BitVec.getLsbD_extractLsb', hi j hj]
    by_cases hk : j < 24
    · simp [hk, hj]
    · simp [hk]; omega
  unfold State.loadOperand
  rw [hcr]

/-! ## Completion (40_datapath.md R184, R188) -/

theorem afterExecute_ok {s : State} (h : s.faultStatus = none) : afterExecute (.next s) = .next s.complete := by
  simp [afterExecute, h]

theorem afterExecute_faulted {s : State} {k : FaultKind} (h : s.faultStatus = some k) :
    afterExecute (.next s) = .next s := by
  simp [afterExecute, h]

end Sys2Proof.Machine
end

