-- ==== Sys2Proof/Tests/Slice0.lean ====
section
/-! SUPPORT. The model's own tests: well-formedness, decoding, the vectors of spec/95_test_vectors.md, and one witness for
every statement of Obligations.lean that has hypotheses. -/

namespace Sys2Proof.Tests

open Sys2Proof Sys2Proof.Machine

/-! ## Well-formedness: an ill-formed term for each check -/

theorem test_every_instr_wellFormed : (Instr.push 0xFFFFFF).wellFormed = true := by decide

theorem test_class_3_illFormed : (MicroInstr.mk 3 0 0 0 0 0).wellFormed = false := by decide

theorem test_shift_5_illFormed : (MicroInstr.mk 0 0 0 0 0 0x050).wellFormed = false := by decide

theorem test_mask_bit_7_illFormed :
    (MicroInstr.mk 0 0x80 0 0 0 0).wellFormed = false ∧ (MicroInstr.mk 0 0 0x80 0 0 0).wellFormed = false ∧
    (MicroInstr.mk 0 0 0 0x80 0 0).wellFormed = false := by decide

/-- A missing mnemonic, a byte twice, an odd byte, a format N byte for format A (R82, R86, R89). -/
theorem test_illegal_opcode_maps :
    legalOpcodeMap (defaultOpcodeMap.drop 1) = false ∧
    legalOpcodeMap ((.nop, 0x04#8) :: defaultOpcodeMap.drop 1) = false ∧
    legalOpcodeMap ((.nop, 0x03#8) :: defaultOpcodeMap.drop 1) = false ∧
    legalOpcodeMap (defaultOpcodeMap.dropLast ++ [(.check, 0x40#8)]) = false ∧
    legalOpcodeMap ((.nop, 0x02#8) :: defaultOpcodeMap) = false := by decide

theorem test_memory_illFormed :
    Memory.wf ⟨0, [(5, 1), (4, 1)]⟩ = false ∧ Memory.wf ⟨0, [(5, 0)]⟩ = false ∧
    Memory.wf ⟨0, [(0x1000000, 1)]⟩ = false := by decide

/-! ## Decoding: every constructor's word written out from the table of 30_encoding.md R86 -/

theorem test_decode_privileged :
    decode 0b00000010_000000000000000000000000#32 = .ok .nop ∧
    decode 0b00000100_000000000000000000000000#32 = .ok .halt ∧
    decode 0b00110100_000000000000000000000000#32 = .ok .ei ∧
    decode 0b00110110_000000000000000000000000#32 = .ok .di ∧
    decode 0b00111000_000000000000000000000000#32 = .ok .iret := by decide

theorem test_decode_stack_arithmetic :
    decode 0b00000110_000000000000000000000000#32 = .ok .add ∧
    decode 0b00001000_000000000000000000000000#32 = .ok .sub ∧
    decode 0b00001010_000000000000000000000000#32 = .ok .mul ∧
    decode 0b00001100_000000000000000000000000#32 = .ok .div ∧
    decode 0b00001110_000000000000000000000000#32 = .ok .and ∧
    decode 0b00010000_000000000000000000000000#32 = .ok .or ∧
    decode 0b00010010_000000000000000000000000#32 = .ok .not ∧
    decode 0b00010100_000000000000000000000000#32 = .ok .neg ∧
    decode 0b00010110_000000000000000000000000#32 = .ok .shl ∧
    decode 0b00011000_000000000000000000000000#32 = .ok .shr ∧
    decode 0b00011010_000000000000000000000000#32 = .ok .rol ∧
    decode 0b00011100_000000000000000000000000#32 = .ok .ror ∧
    decode 0b00011110_000000000000000000000000#32 = .ok .cmp := by decide

theorem test_decode_stack_management :
    decode 0b00100000_000000000000000000000000#32 = .ok .pop ∧
    decode 0b00100010_000000000000000000000000#32 = .ok .pushf ∧
    decode 0b00100100_000000000000000000000000#32 = .ok .popf ∧
    decode 0b00100110_000000000000000000000000#32 = .ok .inc ∧
    decode 0b00101000_000000000000000000000000#32 = .ok .dec ∧
    decode 0b00101010_000000000000000000000000#32 = .ok .swap ∧
    decode 0b00101100_000000000000000000000000#32 = .ok .dup ∧
    decode 0b00101110_000000000000000000000000#32 = .ok .ret ∧
    decode 0b10000000_000000010010001101000101#32 = .ok (.push 0x012345) ∧
    decode 0b10000100_000000010010001101000101#32 = .ok (.call 0x012345) := by decide

theorem test_decode_memory :
    decode 0b00110000_000000000000000000000000#32 = .ok .ld ∧
    decode 0b00110010_000000000000000000000000#32 = .ok .st := by decide

theorem test_decode_control_flow :
    decode 0b10001000_000000010010001101000101#32 = .ok (.jmp 0x012345) ∧
    decode 0b10001100_000000010010001101000101#32 = .ok (.jz 0x012345) ∧
    decode 0b10010000_000000010010001101000101#32 = .ok (.je 0x012345) ∧
    decode 0b10010100_000000010010001101000101#32 = .ok (.jnz 0x012345) ∧
    decode 0b10011000_000000010010001101000101#32 = .ok (.jg 0x012345) ∧
    decode 0b10011100_000000010010001101000101#32 = .ok (.jge 0x012345) ∧
    decode 0b10100000_000000010010001101000101#32 = .ok (.jl 0x012345) ∧
    decode 0b10100100_000000010010001101000101#32 = .ok (.jle 0x012345) := by decide

theorem test_decode_device_control :
    decode 0b10101000_000000010010001101000101#32 = .ok (.set 0x012345) ∧
    decode 0b10101100_000000010010001101000101#32 = .ok (.unset 0x012345) ∧
    decode 0b10110000_000000010010001101000101#32 = .ok (.check 0x012345) := by decide

/-- The decode table of 95_test_vectors.md 2.12. -/
theorem test_decode_corners :
    decode 0x06FFFFFF#32 = .ok .add ∧ decode 0x07000000#32 = .error (.unassigned 0x07) ∧
    decode 0x3A000000#32 = .error (.unassigned 0x3A) ∧ decode 0x7E000000#32 = .error (.unassigned 0x7E) ∧
    decode 0x83FFFFFF#32 = .ok (.push 0xFFFFFF) ∧ decode 0x84000020#32 = .ok (.call 0x20) ∧
    decode 0xB3000002#32 = .ok (.check 2) ∧ decode 0xB4000000#32 = .error (.unassigned 0xB4) ∧
    decode 0x00000000#32 = .error (.unassigned 0) := by decide

theorem test_decodeTableWord :
    decodeTableWord 32 0x80000002 = some (.push 2) ∧ decodeTableWord 32 0 = none := by decide

/-! ## One step of every instruction: 95_test_vectors.md 2.6 to 2.12 -/

/-- A memory of zeros but for the given cells. -/
def memOf (cells : List (Nat × Word)) : Memory := cells.foldl (fun m c => m.write c.1 c.2) (Memory.blank 0)

/-- The start state of the vectors: the instruction word at PC = 0x40. -/
def before (sp sr : Word) (cells : List (Nat × Word)) (w : Word) : State :=
  { State.reset with pc := 0x40, sp := sp, sr := sr, mem := (memOf cells).write 0x40 w }

/-- The same with SHIFT_FLAGS = post. -/
def beforePost (sp sr : Word) (cells : List (Nat × Word)) (w : Word) : State :=
  { before sp sr cells w with shiftFlags := .post }

/-- What a vector shows of the state after a step. -/
structure Seen where
  pc : Word
  sp : Word
  sr : Word
  ticks : Nat
  fault : Option FaultKind
  cell : Word
deriving DecidableEq

/-- PC, SP, SR, the ticks, the fault status and one cell after a step. -/
def seen (s : State) (a : Nat) : Option Seen :=
  match step s with
  | .next t => some ⟨t.pc, t.sp, t.sr, t.ticks, t.faultStatus, t.mem.read a⟩
  | .fault _ => none
  | .refused _ => none

theorem test_add_2 : seen (before 0xFFFFFD 0x8000 [(0xFFFFFD, 0x1), (0xFFFFFE, 0xFFFFFFFF)] 0x06000000) 0xFFFFFE =
    some ⟨0x41, 0xFFFFFE, 0x8005, 12, none, 0x0⟩ := by decide

theorem test_add_3 : seen (before 0xFFFFFD 0x8000 [(0xFFFFFD, 0x1), (0xFFFFFE, 0x7FFFFFFF)] 0x06000000) 0xFFFFFE =
    some ⟨0x41, 0xFFFFFE, 0x8008, 12, none, 0x80000000⟩ := by decide

theorem test_sub_1 : seen (before 0xFFFFFD 0x8000 [(0xFFFFFD, 0x3), (0xFFFFFE, 0x5)] 0x08000000) 0xFFFFFE =
    some ⟨0x41, 0xFFFFFE, 0x8000, 12, none, 0x2⟩ := by decide

theorem test_sub_2 : seen (before 0xFFFFFD 0x8000 [(0xFFFFFD, 0x5), (0xFFFFFE, 0x3)] 0x08000000) 0xFFFFFE =
    some ⟨0x41, 0xFFFFFE, 0x8008, 12, none, 0xFFFFFFFE⟩ := by decide

theorem test_mul_2 : seen (before 0xFFFFFD 0x8000 [(0xFFFFFD, 0x10000), (0xFFFFFE, 0x10000)] 0x0A000000) 0xFFFFFE =
    some ⟨0x41, 0xFFFFFE, 0x8005, 12, none, 0x0⟩ := by decide

theorem test_mul_3 : seen (before 0xFFFFFD 0x8000 [(0xFFFFFD, 0xFFFFFFFF), (0xFFFFFE, 0xFFFFFFFF)] 0x0A000000) 0xFFFFFE =
    some ⟨0x41, 0xFFFFFE, 0x8001, 12, none, 0x1⟩ := by decide

theorem test_div_1 : seen (before 0xFFFFFD 0x8000 [(0xFFFFFD, 0x2), (0xFFFFFE, 0x7)] 0x0C000000) 0xFFFFFE =
    some ⟨0x41, 0xFFFFFE, 0x8000, 12, none, 0x3⟩ := by decide

theorem test_div_5 : seen (before 0xFFFFFD 0x8000 [(0xFFFFFD, 0x0), (0xFFFFFE, 0x5)] 0x0C000000) 0xFFFFFE =
    some ⟨0x41, 0xFFFFFD, 0x8000, 10, some .divisionByZero, 0x5⟩ := by decide

theorem test_and_1 : seen (before 0xFFFFFD 0x8000 [(0xFFFFFD, 0xFF00FF00), (0xFFFFFE, 0xF0F0F0F0)] 0x0E000000) 0xFFFFFE =
    some ⟨0x41, 0xFFFFFE, 0x8008, 12, none, 0xF000F000⟩ := by decide

theorem test_and_2 : seen (before 0xFFFFFD 0x8003 [(0xFFFFFD, 0xF0), (0xFFFFFE, 0xF)] 0x0E000000) 0xFFFFFE =
    some ⟨0x41, 0xFFFFFE, 0x8007, 12, none, 0x0⟩ := by decide

theorem test_or_1 : seen (before 0xFFFFFD 0x8000 [(0xFFFFFD, 0xF0), (0xFFFFFE, 0xF)] 0x10000000) 0xFFFFFE =
    some ⟨0x41, 0xFFFFFE, 0x8000, 13, none, 0xFF⟩ := by decide

theorem test_or_3 : seen (before 0xFFFFFD 0x8003 [(0xFFFFFD, 0x1), (0xFFFFFE, 0x80000000)] 0x10000000) 0xFFFFFE =
    some ⟨0x41, 0xFFFFFE, 0x800B, 13, none, 0x80000001⟩ := by decide

theorem test_not_1 : seen (before 0xFFFFFD 0x8000 [(0xFFFFFD, 0x0)] 0x12000000) 0xFFFFFD =
    some ⟨0x41, 0xFFFFFD, 0x8008, 8, none, 0xFFFFFFFF⟩ := by decide

theorem test_not_2 : seen (before 0xFFFFFD 0x8001 [(0xFFFFFD, 0xFFFFFFFF)] 0x12000000) 0xFFFFFD =
    some ⟨0x41, 0xFFFFFD, 0x8005, 8, none, 0x0⟩ := by decide

theorem test_neg_1 : seen (before 0xFFFFFD 0x8000 [(0xFFFFFD, 0x1)] 0x14000000) 0xFFFFFD =
    some ⟨0x41, 0xFFFFFD, 0x8008, 8, none, 0xFFFFFFFF⟩ := by decide

theorem test_neg_3 : seen (before 0xFFFFFD 0x8003 [(0xFFFFFD, 0x80000000)] 0x14000000) 0xFFFFFD =
    some ⟨0x41, 0xFFFFFD, 0x8008, 8, none, 0x80000000⟩ := by decide

theorem test_shl_1 : seen (before 0xFFFFFD 0x8000 [(0xFFFFFD, 0x80000001)] 0x16000000) 0xFFFFFD =
    some ⟨0x41, 0xFFFFFD, 0x8008, 8, none, 0x2⟩ := by decide

theorem test_shl_4 : seen (beforePost 0xFFFFFD 0x8000 [(0xFFFFFD, 0x80000000)] 0x16000000) 0xFFFFFD =
    some ⟨0x41, 0xFFFFFD, 0x8004, 9, none, 0x0⟩ := by decide

theorem test_shr_2 : seen (beforePost 0xFFFFFD 0x8000 [(0xFFFFFD, 0x1)] 0x18000000) 0xFFFFFD =
    some ⟨0x41, 0xFFFFFD, 0x8004, 9, none, 0x0⟩ := by decide

theorem test_shr_3 : seen (before 0xFFFFFD 0x8000 [(0xFFFFFD, 0x80000000)] 0x18000000) 0xFFFFFD =
    some ⟨0x41, 0xFFFFFD, 0x8008, 8, none, 0x40000000⟩ := by decide

theorem test_rol_1 : seen (before 0xFFFFFD 0x8000 [(0xFFFFFD, 0x80000001)] 0x1A000000) 0xFFFFFD =
    some ⟨0x41, 0xFFFFFD, 0x8008, 8, none, 0x3⟩ := by decide

theorem test_rol_2 : seen (before 0xFFFFFD 0x8000 [(0xFFFFFD, 0x0)] 0x1A000000) 0xFFFFFD =
    some ⟨0x41, 0xFFFFFD, 0x8004, 8, none, 0x0⟩ := by decide

theorem test_ror_1 : seen (before 0xFFFFFD 0x8000 [(0xFFFFFD, 0x1)] 0x1C000000) 0xFFFFFD =
    some ⟨0x41, 0xFFFFFD, 0x8000, 8, none, 0x80000000⟩ := by decide

theorem test_ror_2 : seen (beforePost 0xFFFFFD 0x8000 [(0xFFFFFD, 0x1)] 0x1C000000) 0xFFFFFD =
    some ⟨0x41, 0xFFFFFD, 0x8008, 9, none, 0x80000000⟩ := by decide

theorem test_cmp_2 : seen (before 0xFFFFFD 0x8000 [(0xFFFFFD, 0x5), (0xFFFFFE, 0x3)] 0x1E000000) 0xFFFFFD =
    some ⟨0x41, 0xFFFFFD, 0x8008, 10, none, 0x5⟩ := by decide

theorem test_cmp_5 : seen (before 0xFFFFFD 0x8000 [(0xFFFFFD, 0x80000000), (0xFFFFFE, 0x0)] 0x1E000000) 0xFFFFFD =
    some ⟨0x41, 0xFFFFFD, 0x8008, 10, none, 0x80000000⟩ := by decide

theorem test_pop_1 : seen (before 0xFFFFFD 0x8000 [(0xFFFFFD, 0x1234)] 0x20000000) 0xFFFFFD =
    some ⟨0x41, 0xFFFFFE, 0x8000, 5, none, 0x1234⟩ := by decide

theorem test_pop_2 : seen (before 0xFFFFFF 0x8000 [] 0x20000000) 0x40 =
    some ⟨0x41, 0x0, 0x8000, 5, none, 0x20000000⟩ := by decide

theorem test_pushf_1 : seen (before 0xFFFFFF 0xC00F [] 0x22000000) 0xFFFFFE =
    some ⟨0x41, 0xFFFFFE, 0xC00F, 7, none, 0xC00F⟩ := by decide

theorem test_popf_2 : seen (before 0xFFFFFD 0x8000 [(0xFFFFFD, 0x4003)] 0x24000000) 0xFFFFFD =
    some ⟨0x41, 0xFFFFFE, 0x4003, 8, none, 0x4003⟩ := by decide

theorem test_popf_3 : seen (before 0xFFFFFD 0x8000 [(0xFFFFFD, 0xFFFFFFFF)] 0x24000000) 0xFFFFFD =
    some ⟨0x41, 0xFFFFFE, 0xFFFFFFFF, 8, none, 0xFFFFFFFF⟩ := by decide

theorem test_inc_1 : seen (before 0xFFFFFD 0x8000 [(0xFFFFFD, 0xFFFFFFFF)] 0x26000000) 0xFFFFFD =
    some ⟨0x41, 0xFFFFFD, 0x8005, 8, none, 0x0⟩ := by decide

theorem test_inc_2 : seen (before 0xFFFFFD 0x8000 [(0xFFFFFD, 0x7FFFFFFF)] 0x26000000) 0xFFFFFD =
    some ⟨0x41, 0xFFFFFD, 0x8008, 8, none, 0x80000000⟩ := by decide

theorem test_dec_1 : seen (before 0xFFFFFD 0x8000 [(0xFFFFFD, 0x1)] 0x28000000) 0xFFFFFD =
    some ⟨0x41, 0xFFFFFD, 0x8004, 8, none, 0x0⟩ := by decide

theorem test_dec_2 : seen (before 0xFFFFFD 0x8001 [(0xFFFFFD, 0x0)] 0x28000000) 0xFFFFFD =
    some ⟨0x41, 0xFFFFFD, 0x8008, 8, none, 0xFFFFFFFF⟩ := by decide

theorem test_swap_1 : seen (before 0xFFFFFD 0x800F [(0xFFFFFD, 0xB), (0xFFFFFE, 0xA)] 0x2A000000) 0xFFFFFD =
    some ⟨0x41, 0xFFFFFD, 0x800F, 14, none, 0xA⟩ := by decide

theorem test_dup_1 : seen (before 0xFFFFFD 0x8000 [(0xFFFFFD, 0x55)] 0x2C000000) 0xFFFFFC =
    some ⟨0x41, 0xFFFFFC, 0x8000, 8, none, 0x55⟩ := by decide

theorem test_dup_2 : seen (before 0x0 0x8000 [(0x0, 0x66)] 0x2C000000) 0xFFFFFF =
    some ⟨0x41, 0xFFFFFF, 0x8000, 8, none, 0x66⟩ := by decide

theorem test_push_1 : seen (before 0xFFFFFF 0x8000 [] 0x80123456) 0xFFFFFE =
    some ⟨0x41, 0xFFFFFE, 0x8000, 7, none, 0x123456⟩ := by decide

theorem test_push_3 : seen (before 0x0 0x8000 [] 0x80000001) 0xFFFFFF =
    some ⟨0x41, 0xFFFFFF, 0x8000, 7, none, 0x1⟩ := by decide

theorem test_call_1 : seen (before 0xFFFFFF 0x8000 [] 0x84000100) 0xFFFFFE =
    some ⟨0x100, 0xFFFFFE, 0x8000, 8, none, 0x41⟩ := by decide

theorem test_ret_1 : seen (before 0xFFFFFD 0x8000 [(0xFFFFFD, 0x12000030)] 0x2E000000) 0xFFFFFD =
    some ⟨0x30, 0xFFFFFE, 0x8000, 8, none, 0x12000030⟩ := by decide

theorem test_jmp_1 : seen (before 0xFFFFFD 0x800F [] 0x88000100) 0x40 =
    some ⟨0x100, 0xFFFFFD, 0x800F, 5, none, 0x88000100⟩ := by decide

theorem test_jz_z1n0 : seen (before 0xFFFFFD 0x8004 [] 0x8C000100) 0x40 =
    some ⟨0x100, 0xFFFFFD, 0x8004, 5, none, 0x8C000100⟩ := by decide

theorem test_jz_z0n1 : seen (before 0xFFFFFD 0x8008 [] 0x8C000100) 0x40 =
    some ⟨0x41, 0xFFFFFD, 0x8008, 4, none, 0x8C000100⟩ := by decide

theorem test_je_z1n0 : seen (before 0xFFFFFD 0x8004 [] 0x90000100) 0x40 =
    some ⟨0x100, 0xFFFFFD, 0x8004, 5, none, 0x90000100⟩ := by decide

theorem test_je_z0n1 : seen (before 0xFFFFFD 0x8008 [] 0x90000100) 0x40 =
    some ⟨0x41, 0xFFFFFD, 0x8008, 4, none, 0x90000100⟩ := by decide

theorem test_jnz_z0n1 : seen (before 0xFFFFFD 0x8008 [] 0x94000100) 0x40 =
    some ⟨0x100, 0xFFFFFD, 0x8008, 5, none, 0x94000100⟩ := by decide

theorem test_jnz_z1n0 : seen (before 0xFFFFFD 0x8004 [] 0x94000100) 0x40 =
    some ⟨0x41, 0xFFFFFD, 0x8004, 4, none, 0x94000100⟩ := by decide

theorem test_jg_z0n0 : seen (before 0xFFFFFD 0x8000 [] 0x98000100) 0x40 =
    some ⟨0x100, 0xFFFFFD, 0x8000, 5, none, 0x98000100⟩ := by decide

theorem test_jg_z0n1 : seen (before 0xFFFFFD 0x8008 [] 0x98000100) 0x40 =
    some ⟨0x41, 0xFFFFFD, 0x8008, 4, none, 0x98000100⟩ := by decide

theorem test_jge_z1n0 : seen (before 0xFFFFFD 0x8004 [] 0x9C000100) 0x40 =
    some ⟨0x100, 0xFFFFFD, 0x8004, 5, none, 0x9C000100⟩ := by decide

theorem test_jge_z0n1 : seen (before 0xFFFFFD 0x8008 [] 0x9C000100) 0x40 =
    some ⟨0x41, 0xFFFFFD, 0x8008, 4, none, 0x9C000100⟩ := by decide

theorem test_jl_z0n1 : seen (before 0xFFFFFD 0x8008 [] 0xA0000100) 0x40 =
    some ⟨0x100, 0xFFFFFD, 0x8008, 5, none, 0xA0000100⟩ := by decide

theorem test_jl_z1n0 : seen (before 0xFFFFFD 0x8004 [] 0xA0000100) 0x40 =
    some ⟨0x41, 0xFFFFFD, 0x8004, 4, none, 0xA0000100⟩ := by decide

theorem test_jle_z1n0 : seen (before 0xFFFFFD 0x8004 [] 0xA4000100) 0x40 =
    some ⟨0x100, 0xFFFFFD, 0x8004, 5, none, 0xA4000100⟩ := by decide

theorem test_jle_z0n0 : seen (before 0xFFFFFD 0x8000 [] 0xA4000100) 0x40 =
    some ⟨0x41, 0xFFFFFD, 0x8000, 4, none, 0xA4000100⟩ := by decide

theorem test_ld_1 : seen (before 0xFFFFFD 0x8000 [(0x50, 0xCAFEF00D), (0xFFFFFD, 0xAB000050)] 0x30000000) 0xFFFFFD =
    some ⟨0x41, 0xFFFFFD, 0x8000, 10, none, 0xCAFEF00D⟩ := by decide

theorem test_ld_2 : seen (before 0xFFFFFD 0x8000 [(0xFFFFFD, 0xFFFFFD)] 0x30000000) 0xFFFFFD =
    some ⟨0x41, 0xFFFFFD, 0x8000, 10, none, 0xFFFFFD⟩ := by decide

theorem test_st_1 : seen (before 0xFFFFFD 0x800F [(0xFFFFFD, 0x50), (0xFFFFFE, 0x1234)] 0x32000000) 0x50 =
    some ⟨0x41, 0xFFFFFF, 0x800F, 12, none, 0x1234⟩ := by decide

theorem test_st_2 : seen (before 0xFFFFFD 0x8000 [(0xFFFFFD, 0x1FFFFFD), (0xFFFFFE, 0x9)] 0x32000000) 0xFFFFFD =
    some ⟨0x41, 0xFFFFFF, 0x8000, 12, none, 0x9⟩ := by decide

theorem test_set_1 : seen (before 0xFFFFFD 0x8000 [(0x2, 0x40)] 0xA8000002) 0x2 =
    some ⟨0x41, 0xFFFFFD, 0x8000, 10, none, 0x80000040⟩ := by decide

theorem test_set_3 : seen (before 0xFFFFFD 0x8000 [(0x100, 0x12345678)] 0xA8000100) 0x100 =
    some ⟨0x41, 0xFFFFFD, 0x8000, 10, none, 0x92345678⟩ := by decide

theorem test_unset_1 : seen (before 0xFFFFFD 0x8000 [(0x2, 0xFFFFFFFF)] 0xAC000002) 0x2 =
    some ⟨0x41, 0xFFFFFD, 0x8000, 9, none, 0x7FFFFFFF⟩ := by decide

theorem test_unset_2 : seen (before 0xFFFFFD 0x8000 [(0x2, 0x40)] 0xAC000002) 0x2 =
    some ⟨0x41, 0xFFFFFD, 0x8000, 9, none, 0x40⟩ := by decide

theorem test_check_1 : seen (before 0xFFFFFD 0x8003 [(0x2, 0x80000000)] 0xB0000002) 0x2 =
    some ⟨0x41, 0xFFFFFD, 0x800B, 8, none, 0x80000000⟩ := by decide

theorem test_check_2 : seen (before 0xFFFFFD 0x8008 [(0x2, 0x7FFFFFFF)] 0xB0000002) 0x2 =
    some ⟨0x41, 0xFFFFFD, 0x8004, 8, none, 0x7FFFFFFF⟩ := by decide

theorem test_nop_1 : seen (before 0xFFFFFD 0x800F [] 0x02000000) 0x40 =
    some ⟨0x41, 0xFFFFFD, 0x800F, 4, none, 0x2000000⟩ := by decide

theorem test_halt_1 : seen (before 0xFFFFFD 0xC00F [] 0x04000000) 0x40 =
    some ⟨0x41, 0xFFFFFD, 0x400F, 7, none, 0x4000000⟩ := by decide

theorem test_ei_1 : seen (before 0xFFFFFD 0x8000 [] 0x34000000) 0x40 =
    some ⟨0x41, 0xFFFFFD, 0xC000, 9, none, 0x34000000⟩ := by decide

theorem test_ei_2 : seen (before 0xFFFFFD 0xC00F [] 0x34000000) 0x40 =
    some ⟨0x41, 0xFFFFFD, 0xC00F, 9, none, 0x34000000⟩ := by decide

theorem test_di_1 : seen (before 0xFFFFFD 0xC00F [] 0x36000000) 0x40 =
    some ⟨0x41, 0xFFFFFD, 0x800F, 8, none, 0x36000000⟩ := by decide

theorem test_iret_1 : seen (before 0xFFFFFD 0x8000 [(0xFFFFFD, 0xC001), (0xFFFFFE, 0x12000123)] 0x38000000) 0xFFFFFD =
    some ⟨0x123, 0xFFFFFF, 0xC001, 12, none, 0xC001⟩ := by decide

theorem test_unk_2 : seen (before 0xFFFFFD 0x8000 [] 0x03000000) 0x40 =
    some ⟨0x41, 0xFFFFFD, 0x8000, 4, some .unknownOpcode, 0x3000000⟩ := by decide

theorem test_unk_4 : seen (before 0xFFFFFD 0x8000 [] 0xB4000000) 0x40 =
    some ⟨0x41, 0xFFFFFD, 0x8000, 4, some .unknownOpcode, 0xB4000000⟩ := by decide

theorem test_subm_1 : seen (before 0xFFFFFF 0x8000 [] 0x81000005) 0xFFFFFE =
    some ⟨0x41, 0xFFFFFE, 0x8000, 7, none, 0x5⟩ := by decide

theorem test_low_1 : seen (before 0xFFFFFD 0x8000 [(0xFFFFFD, 0x2), (0xFFFFFE, 0x3)] 0x06ABCDEF) 0xFFFFFE =
    some ⟨0x41, 0xFFFFFE, 0x8000, 12, none, 0x5⟩ := by decide

/-- V-CALL-2: PC wraps at the end of memory, and the return address pushed is 0. -/
theorem test_call_2 :
    seen { before 0xFFFFFF 0x8000 [] 0 with pc := 0xFFFFFF, mem := memOf [(0xFFFFFF, 0x84000040), (0xFFFFFE, 7)] } 0xFFFFFE =
    some ⟨0x40, 0xFFFFFE, 0x8000, 8, none, 0⟩ := by decide

/-- The scratch registers after V-UNK-1 (2.12). -/
theorem test_unk_1_scratch :
    (match step (before 0xFFFFFD 0x8000 [] 0) with
      | .next t => some (t.cr, t.ar, t.dr, t.br, t.instructions)
      | _ => none) = some (0, 0x40, 0, 0x40, 0) := by decide

/-- The scratch registers after the `div` of L1-2. -/
theorem test_l1_2_scratch :
    (match step { before 0xFFFFFD 0x8000 [(0xFFFFFE, 7)] 0 with pc := 0x22, mem := memOf [(0x22, 0x0C000000), (0xFFFFFE, 7)] } with
      | .next t => some (t.pc, t.cr, t.ar, t.dr, t.br, t.ticks)
      | _ => none) = some (0x23, 0x0C000000, 0xFFFFFE, 7, 0, 10) := by decide

/-- After a step that ended the run there is no further one (10_state.md R39). -/
theorem test_run_ended :
    (match step { before 0xFFFFFD 0x8000 [] 0 with faultStatus := some .unknownOpcode } with
      | .fault f => some f | _ => none) = some (.runFaulted .unknownOpcode) ∧
    (match step (before 0xFFFFFD 0x4003 [] 0x02000000) with | .fault f => some f | _ => none) = some .runHalted := by
  decide

/-! ## The micro level: 95_test_vectors.md 2.1 to 2.5 -/


theorem test_alu_add :
    aluCompute 0xFFFFFFFF 0x00000001 0x00 = .ok (0x00000000, ⟨true, false, true, false⟩) ∧
    aluCompute 0x80000000 0x80000000 0x00 = .ok (0x00000000, ⟨true, false, true, false⟩) ∧
    aluCompute 0x00000001 0x00000002 0x00 = .ok (0x00000003, ⟨false, false, false, false⟩) ∧
    aluCompute 0x7FFFFFFF 0x00000001 0x00 = .ok (0x80000000, ⟨false, false, false, true⟩) ∧
    aluCompute 0x00000005 0x00000003 0x30 = .ok (0x00000002, ⟨false, false, false, false⟩) ∧
    aluCompute 0x00000003 0x00000005 0x30 = .ok (0xFFFFFFFE, ⟨false, false, false, true⟩) ∧
    aluCompute 0x00000000 0x00000000 0x30 = .ok (0x00000000, ⟨false, false, true, false⟩) ∧
    aluCompute 0x00000000 0x00000000 0x10 = .ok (0xFFFFFFFF, ⟨false, false, false, true⟩) ∧
    aluCompute 0xFFFFFFFF 0x00000000 0x20 = .ok (0x00000000, ⟨true, false, true, false⟩) ∧
    aluCompute 0x00000005 0x00000000 0x04 = .ok (0xFFFFFFFA, ⟨false, false, false, true⟩) ∧
    aluCompute 0x00000000 0x00000000 0x0C = .ok (0x00000000, ⟨false, false, true, false⟩) ∧
    aluCompute 0x00000001 0x00000000 0x0C = .ok (0xFFFFFFFF, ⟨false, false, false, true⟩) ∧
    aluCompute 0x00000000 0x00000000 0x08 = .ok (0x00000001, ⟨false, false, false, false⟩) := by decide

theorem test_alu_and :
    aluCompute 0xF0F0F0F0 0xFF00FF00 0x01 = .ok (0xF000F000, ⟨false, false, false, true⟩) ∧
    aluCompute 0x0000FFFF 0x12345678 0x15 = .ok (0xEDCB0000, ⟨false, false, false, true⟩) ∧
    aluCompute 0x00000000 0xDEADBEEF 0x05 = .ok (0xDEADBEEF, ⟨false, false, false, true⟩) := by decide

theorem test_alu_mul :
    aluCompute 0x00010000 0x00010000 0x02 = .ok (0x00000000, ⟨true, false, true, false⟩) ∧
    aluCompute 0xFFFFFFFF 0x00000002 0x02 = .ok (0xFFFFFFFE, ⟨true, false, false, true⟩) ∧
    aluCompute 0x00000000 0x00000000 0x16 = .ok (0x00000001, ⟨false, true, false, false⟩) ∧
    aluCompute 0x00000003 0x00000004 0x02 = .ok (0x0000000C, ⟨false, false, false, false⟩) := by decide

theorem test_alu_div :
    aluCompute 0x00000007 0x00000002 0x03 = .ok (0x00000003, ⟨false, false, false, false⟩) ∧
    aluCompute 0x00000007 0x00000002 0x0F = .ok (0xFFFFFFFC, ⟨false, false, false, true⟩) ∧
    aluCompute 0x00000006 0x00000003 0x3F = .ok (0x00000002, ⟨false, true, false, false⟩) ∧
    aluCompute 0xFFFFFFFF 0x00000010 0x03 = .ok (0x0FFFFFFF, ⟨false, false, false, false⟩) ∧
    aluCompute 0x00000001 0x00000000 0x03 = .error .divisionByZero ∧
    aluCompute 0x00000005 0x00000001 0x33 = .ok (0xFFFFFFFB, ⟨false, false, false, true⟩) ∧
    aluCompute 0x00000005 0xFFFFFFFF 0x23 = .ok (0x00000000, ⟨false, false, true, false⟩) := by decide

theorem test_commutator_lanes :
    [0x12345678, 0xFFFFFFFF, 0x80000001].map (commutate · 0x000) = [.ok 0x00000000, .ok 0x00000000, .ok 0x00000000] ∧
    [0x12345678, 0xFFFFFFFF, 0x80000001].map (commutate · 0x002) = [.ok 0x00005678, .ok 0x0000FFFF, .ok 0x00000001] ∧
    [0x12345678, 0xFFFFFFFF, 0x80000001].map (commutate · 0x008) = [.ok 0x12340000, .ok 0xFFFF0000, .ok 0x80000000] ∧
    [0x12345678, 0xFFFFFFFF, 0x80000001].map (commutate · 0x00A) = [.ok 0x12345678, .ok 0xFFFFFFFF, .ok 0x80000001] ∧
    [0x12345678, 0xFFFFFFFF, 0x80000001].map (commutate · 0x004) = [.ok 0x00001234, .ok 0x0000FFFF, .ok 0x00008000] ∧
    [0x12345678, 0xFFFFFFFF, 0x80000001].map (commutate · 0x001) = [.ok 0x56780000, .ok 0xFFFF0000, .ok 0x00010000] ∧
    [0x12345678, 0xFFFFFFFF, 0x80000001].map (commutate · 0x005) = [.ok 0x56781234, .ok 0xFFFFFFFF, .ok 0x00018000] ∧
    [0x12345678, 0xFFFFFFFF, 0x80000001].map (commutate · 0x003) = [.ok 0x56785678, .ok 0xFFFFFFFF, .ok 0x00010001] ∧
    [0x12345678, 0xFFFFFFFF, 0x80000001].map (commutate · 0x00F) = [.ok 0x00345678, .ok 0x00FFFFFF, .ok 0x00000001] := by decide

theorem test_commutator_shifts :
    [0x12345678, 0xFFFFFFFF, 0x80000001].map (commutate · 0x010) = [.ok 0x2468ACF0, .ok 0xFFFFFFFE, .ok 0x00000002] ∧
    [0x12345678, 0xFFFFFFFF, 0x80000001].map (commutate · 0x020) = [.ok 0x091A2B3C, .ok 0x7FFFFFFF, .ok 0x40000000] ∧
    [0x12345678, 0xFFFFFFFF, 0x80000001].map (commutate · 0x030) = [.ok 0x2468ACF0, .ok 0xFFFFFFFF, .ok 0x00000003] ∧
    [0x12345678, 0xFFFFFFFF, 0x80000001].map (commutate · 0x040) = [.ok 0x091A2B3C, .ok 0xFFFFFFFF, .ok 0xC0000000] ∧
    [0x12345678, 0xFFFFFFFF, 0x80000001].map (commutate · 0x01F) = [.ok 0x2468ACF0, .ok 0xFFFFFFFE, .ok 0x00000002] ∧
    commutate 0x12345678 0x050 = .error .reservedMicroop := by decide

/-- FC-1 to FC-5. -/
theorem test_flag_commit :
    commitFlags 0x00A ⟨true, false, true, false⟩ 0x8008 = 0x8008 ∧
    commitFlags 0x08A ⟨true, false, true, false⟩ 0x8008 = 0x8004 ∧
    commitFlags 0x38A ⟨true, false, true, false⟩ 0x8008 = 0x8005 ∧
    commitFlags 0x20A ⟨true, false, true, false⟩ 0x8008 = 0x8009 ∧
    commitFlags 0x10A ⟨false, true, false, false⟩ 0x8000 = 0x8002 := by decide

/-- FC-6: the write-back to SR overwrites the commit. -/
theorem test_flag_commit_sr_target :
    (match dataPath (xfer mSR .add .id mDR .id mNone 0x08A) { State.reset with dr := 0x1234, sr := 0x8008 } with
      | .ok t => some t.sr | .error _ => none) = some 0x00001234 := by decide

theorem test_micro_pack :
    (MicroInstr.mk 0b000 0x48 0x01 0x00 0x00 0x00F).pack = 0x01E00000A40 ∧
    (MicroInstr.mk 0b001 0x00 0x00 0x00 0x00 0x000).pack = 0x00000000001 ∧
    (MicroInstr.mk 0b000 0x04 0x10 0x00 0x00 0x00A).pack = 0x01400008020 ∧
    (MicroInstr.mk 0b000 0x01 0x40 0x00 0x08 0x00F).pack = 0x01E40020008 ∧
    (MicroInstr.mk 0b010 0x00 0x00 0x00 0x00 0x000).pack = 0x00000000002 ∧
    (MicroInstr.mk 0b000 0x10 0x10 0x40 0x00 0x38A).pack = 0x71402008080 ∧
    (MicroInstr.mk 0b000 0x10 0x10 0x40 0x30 0x38A).pack = 0x71582008080 ∧
    (MicroInstr.mk 0b000 0x10 0x10 0x40 0x03 0x38A).pack = 0x7141A008080 ∧
    (MicroInstr.mk 0b000 0x10 0x10 0x40 0x15 0x00A).pack = 0x014AA008080 ∧
    (MicroInstr.mk 0b000 0x0A 0x02 0x00 0x10 0x00F).pack = 0x01E80001050 ∧
    (MicroInstr.mk 0b000 0x02 0x02 0x00 0x28 0x00F).pack = 0x01F40001010 ∧
    (MicroInstr.mk 0b000 0x40 0x00 0x00 0x08 0x040).pack = 0x08040000200 ∧
    (MicroInstr.mk 0b000 0x40 0x40 0x00 0x00 0x004).pack = 0x00800020200 ∧
    (MicroInstr.mk 0b000 0x00 0x10 0x40 0x01 0x08A).pack = 0x1140A008000 ∧
    (MicroInstr.mk 0b000 0x10 0x10 0x00 0x00 0x090).pack = 0x12000008080 ∧
    (MicroInstr.mk 0b000 0x20 0x20 0x40 0x11 0x00A).pack = 0x0148A010100 ∧
    (MicroInstr.mk 0b000 0x10 0x04 0x00 0x00 0x00F).pack = 0x01E00002080 := by decide

/-- The same words from the microprograms' own notation. -/
theorem test_micro_notation :
    [move (mAR ||| mBR) mPC commCUTB,
      uREAD,
      move mCR mDR commPASS,
      xfer mPC .add .inc mBR .id mNone commCUTB,
      uWRITE,
      combine .add .id gateNZVC,
      combine .add .neg gateNZVC,
      combine .div .id gateNZVC,
      uDrNor,
      uSpDec,
      uSpInc2,
      uBit31,
      move mBR mBR commHTOL,
      xfer mNone .and .id mDR .id mBR (commPASS ||| gateNZ),
      move mDR mDR (commSHL ||| gateNZ),
      uSrClear,
      move mDR mCR commCUTB].map MicroInstr.pack =
    [0x01E00000A40, 0x00000000001, 0x01400008020, 0x01E40020008, 0x00000000002, 0x71402008080,
     0x71582008080, 0x7141A008080, 0x014AA008080, 0x01E80001050,
     0x01F40001010, 0x08040000200, 0x00800020200, 0x1140A008000,
     0x12000008080, 0x0148A010100, 0x01E00002080] := by decide

/-- Reserved classes and mask bit 7 (2.4). -/
theorem test_micro_reserved :
    (match dataPathWord 0x00000000003 State.reset with | .error k => some k | .ok _ => none) = some .reservedMicroop ∧
    (match dataPathWord 0x00000000005 State.reset with | .error k => some k | .ok _ => none) = some .reservedMicroop ∧
    (match dataPathWord 0x01E00000400 State.reset with | .ok t => some (decide (t = State.reset)) | .error _ => none) =
      some true := by decide

/-- A reserved SHIFT faults in a READ and in a WRITE (60_exceptions.md R404), past the end of the cells too (log 23); another
COMM value does not (40_datapath.md R178). -/
theorem test_micro_reserved_shift :
    dataPath ⟨1, 0, 0, 0, 0, 0x050⟩ State.reset = .error .reservedMicroop ∧
    dataPath ⟨2, 0, 0, 0, 0, 0x070⟩ State.reset = .error .reservedMicroop ∧
    dataPath ⟨1, 0, 0, 0, 0, 0x060⟩ { State.reset with ar := 0x01000000 } = .error .reservedMicroop ∧
    dataPath ⟨1, 0, 0, 0, 0, 0x3CF⟩ State.reset = .ok State.reset := by decide

/-- The state before the `add` of 2.5. -/
def beforeAdd : State :=
  { before 0xFFFFFD 0x8000 [] 0 with
    pc := 0x22, cr := 0x80000003, ar := 0xFFFFFD, dr := 3, br := 0x21,
    mem := memOf [(0x22, 0x06000000), (0xFFFFFD, 3), (0xFFFFFE, 2)] }

/-- PC, SP, CR, AR, DR, BR and the ticks after a number of ticks and phase changes. -/
def ticked (k : Nat) : Option (List Nat) :=
  match runTicks k beforeAdd with
  | .next t => some ([t.pc, t.sp, t.cr, t.ar, t.dr, t.br].map BitVec.toNat ++ [t.ticks])
  | .fault _ => none
  | .refused _ => none

/-- Rows of 2.5: ticks 2 and 4 of FETCH, tick 9 and tick 12 of EXECUTE, two phase changes later. -/
theorem test_ticks_of_add :
    ticked 2 = some [0x22, 0xFFFFFD, 0x80000003, 0x22, 0x06000000, 0x22, 2] ∧
    ticked 4 = some [0x23, 0xFFFFFD, 0x06000000, 0x22, 0x06000000, 0x22, 4] ∧
    ticked 11 = some [0x23, 0xFFFFFD, 0x06000000, 0xFFFFFE, 2, 3, 9] ∧
    ticked 14 = some [0x23, 0xFFFFFE, 0x06000000, 0xFFFFFE, 5, 3, 12] := by decide

/-! ## Devices: 95_test_vectors.md 2.13 and 2.14 -/

/-- "CSApp". -/
def csapp : List Byte := [0x43, 0x53, 0x41, 0x70, 0x70]

/-- "Hi!". -/
def hi : List Byte := [0x48, 0x69, 0x21]

theorem test_dv_1 :
    pollDevice ⟨1, .input csapp⟩ (memOf [(3, 0x05000020)]) =
      (⟨1, .input []⟩, memOf [(2, 0x80000000), (3, 0x05000020), (0x20, 0x43534170), (0x21, 0x70000000)]) := by decide

theorem test_dv_2 :
    pollDevice ⟨1, .input csapp⟩ (memOf [(2, 0x80000000), (3, 0x05000020)]) =
      (⟨1, .input csapp⟩, memOf [(2, 0x80000000), (3, 0x05000020)]) := by decide

theorem test_dv_3 :
    (pollDevice ⟨1, .input hi⟩ (memOf [(3, 0x04000030)])).2 =
      memOf [(2, 0x80000000), (3, 0x04000030), (0x30, 0x48692100)] := by decide

theorem test_dv_4 :
    pollDevice ⟨1, .input hi⟩ (memOf [(3, 0x00000030)]) = (⟨1, .input hi⟩, memOf [(2, 0x80000000), (3, 0x00000030)]) := by
  decide

theorem test_dv_5 :
    pollDevice ⟨2, .output []⟩ (memOf [(4, 0x80000000), (5, 0x03000030), (0x30, 0x48692100)]) =
      (⟨2, .output hi⟩, memOf [(5, 0x03000030), (0x30, 0x48692100)]) := by decide

theorem test_dv_6 : pollDevice ⟨2, .output []⟩ (memOf [(4, 0)]) = (⟨2, .output []⟩, memOf [(4, 0)]) := by decide

/-- Two input devices with one buffer: the higher number polls later, so its bytes stay (R423). -/
theorem test_poll_order :
    (pollAll ((noDevices.set 3 (some (.input hi))).set 1 (some (.input csapp))) (memOf [(3, 0x04000020), (7, 0x04000020)])).2 =
      memOf [(2, 0x80000000), (3, 0x04000020), (6, 0x80000000), (7, 0x04000020), (0x20, 0x48692100)] ∧
    (pollAll ((noDevices.set 3 (some (.input csapp))).set 1 (some (.input hi))) (memOf [(3, 0x04000020), (7, 0x04000020)])).2 =
      memOf [(2, 0x80000000), (3, 0x04000020), (6, 0x80000000), (7, 0x04000020), (0x20, 0x43534170)] := by decide

/-- RL-3: the poll after `halt` still runs. -/
theorem test_rl_3 :
    seen { before 0xFFFFFF 0x8000 [(1, 0x04000020)] 0x04000000 with devices := noDevices.set 0 (some (.input hi)) } 0x20 =
    some ⟨0x41, 0xFFFFFF, 0, 7, none, 0x48692100⟩ := by decide

/-- RL-4: no poll runs after a fault. -/
theorem test_rl_4 :
    seen { before 0xFFFFFF 0x8000 [(1, 0x04000020)] 0x0C000000 with devices := noDevices.set 0 (some (.input hi)) } 0x20 =
    some ⟨0x41, 0xFFFFFF, 0x8000, 10, some .divisionByZero, 0⟩ := by decide

/-! ## The assembler and the loader: 95_test_vectors.md 1, 2.15 and 2.16 -/

/-- The first error of a source text, or none. -/
def asmError (src : String) : Option (AsmErrorKind × Nat) :=
  match assemble defaultOpcodeMap src.toList with
  | .error e => some (e.kind, e.line)
  | .ok _ => none

/-- The program whose text is one `halt` at `start`. -/
def haltProgramSource : Program :=
  { labels := [{ name := startName, sec := .text, line := 2 }], data := []
    text := [.label startName, .instr .halt none 3], devices := [], deviceSections := [] }

/-- The whole text, with one line between `start:` and `halt`. -/
def around (line : String) : String := ".section text\nstart:\n" ++ line ++ "\n halt\n"

/-- L1-1. -/
theorem test_assemble_l1_1 :
    assembleText defaultOpcodeMap ".section text\nstart:\n push 2\n push 3\n add\n halt".toList =
    .ok ("000020 > 80000002  <- start\n000021 : 80000003\n" ++ "000022 : 06000000\n000023 : 04000000\n").toList := by
  decide

set_option maxRecDepth 4000 in
/-- The data packing, the device block and the two labels of 2.15. -/
theorem test_assemble_packing :
    assembleText defaultOpcodeMap
      (".section data\na: byte 1, 2, 3, 4, 5\nc: str \"Hi!\"\nd: res 1\n.section devices\ndev2:\n byte 0x80\n" ++
       " addr 0x123\n byte 8\n addr a\n.section text\nstart:\nloop:\n push -2\n jmp loop\n").toList =
    .ok ("000004 : 80000123  <- dev2\n000005 : 08000020\n000020 : 01020304  <- a\n000021 : 05000000\n" ++
      "000022 : 48692100  <- c\n000023 : 00000000  <- d\n000024 > 80FFFFFE  <- start, loop\n000025 : 88000024\n").toList := by
  decide

/-- AE-1 to AE-6: the lexer and the parser. -/
theorem test_syntax_errors :
    asmError (around " push @") = some (.lexical, 3) ∧ asmError (around " push 'A") = some (.lexical, 3) ∧
    asmError (around " push 1 2") = some (.syntaxError, 3) ∧ asmError (around " push 1,") = some (.syntaxError, 3) ∧
    asmError ".section code\n" = some (.syntaxError, 1) ∧ asmError (around " PUSH 1") = some (.syntaxError, 3) := by decide

/-- AE-7 to AE-10 and AE-17: labels and sections. -/
theorem test_label_errors :
    asmError (around "start:") = some (.duplicateLabel, 3) ∧ asmError ".section text\n halt\n" = some (.semantic, 0) ∧
    asmError ".section text\n halt\nstart:\n" = some (.semantic, 3) ∧
    asmError (around "dev2: nop") = some (.semantic, 3) ∧ asmError (" push 1\n" ++ around "") = some (.semantic, 1) := by
  decide

/-- AE-11 to AE-16: operands. -/
theorem test_operand_errors :
    asmError (around " push") = some (.semantic, 3) ∧ asmError (around " add 1") = some (.semantic, 3) ∧
    asmError (around " jmp nowhere") = some (.semantic, 3) ∧ asmError (around " str \"Hi\"") = some (.semantic, 3) ∧
    asmError (".section data\n byte 256\n" ++ around "") = some (.semantic, 2) ∧
    asmError (".section data\n res 0\n" ++ around "") = some (.semantic, 2) := by decide

set_option maxRecDepth 4000 in
/-- AE-18 to AE-22: device blocks. -/
theorem test_device_errors :
    asmError (".section devices\ndev16: byte 0\n" ++ around "") = some (.semantic, 2) ∧
    asmError (".section devices\ndev1: byte 0\n addr 0\n byte 4\n" ++ around "") = some (.semantic, 2) ∧
    asmError (".section devices\ndev1: byte 0\n addr 0\n byte 4\n addr 0\n" ++ around "") = some (.semantic, 5) ∧
    asmError (".section devices\ndev1: byte 0\n addr 0\n byte 4\n addr 1\n" ++
      "dev1: byte 0\n addr 0\n byte 4\n addr 1\n" ++ around "") = some (.generation, 6) ∧
    asmError (".section devices\n.section devices\n" ++ around "") = some (.generation, 2) := by decide

/-- The token a GenerationError reports (R130): the second marker, the device named twice, the directive past the end. -/
theorem test_generation_tokens :
    (generate defaultOpcodeMap { haltProgramSource with deviceSections := [1, 4] } =
      .error ⟨.generation, 4, some .section_⟩) ∧
    (generate defaultOpcodeMap { haltProgramSource with devices := [⟨1, 2, []⟩, ⟨1, 7, []⟩] } =
      .error ⟨.generation, 7, some (.label ['d', 'e', 'v', '1'])⟩) ∧
    (generate defaultOpcodeMap { haltProgramSource with data := [.res 16777200 2] } =
      .error ⟨.generation, 2, some (.opcode (.directive .res))⟩) := by decide

/-- AE-23 and AE-24: the image's end, and the order of the stages. -/
theorem test_stage_errors :
    asmError (".section data\n res 16777200\n" ++ around "") = some (.generation, 2) ∧
    asmError ".section text\n add 1\nstart:\n halt\n push @\n" = some (.lexical, 5) := by decide

/-- PC and the listed cells of the start state, or the error. -/
def loaded (listing : String) : Except LoadError (Word × List (Nat × Word)) :=
  match load defaultParams listing.toList with
  | .ok s => .ok (s.pc, s.mem.cells)
  | .error e => .error e

/-- LD-1 to LD-4. -/
theorem test_load_accepts :
    loaded "000020 > 80000002  <- start" = .ok (0x20, [(0x20, 0x80000002)]) ∧
    loaded "00002a > deadbeef" = .ok (0x2A, [(0x2A, 0xDEADBEEF)]) ∧
    loaded "000020 > 00000001\r\n\n   \n000021 : 00000002" = .ok (0x20, [(0x20, 1), (0x21, 2)]) ∧
    loaded "000021 : 00000002\n000020 > 00000001" = .ok (0x20, [(0x20, 1), (0x21, 2)]) := by decide

/-- LD-5 to LD-9. -/
theorem test_load_malformed :
    ["00020 > 00000000", "000020 > 0000000", "000020 = 00000000", "000020 >00000000", "000020 > 00000000 junk"].map loaded =
    List.replicate 5 (.error (.malformed 1)) := by decide

/-- LD-10 to LD-13. -/
theorem test_load_entries :
    loaded "000020 : 00000000" = .error .noEntry ∧ loaded "" = .error .noEntry ∧
    loaded "000020 > 00000000\n000021 > 00000000" = .error (.secondEntry 2) ∧
    loaded "000020 > 00000001\n000020 : 00000002" = .error (.duplicateAddress 2) := by decide

/-! ## Witnesses: for each statement with hypotheses, a state and operands that meet them -/

/-- Two cells on the stack, 6 above 2, and the instruction word `w` at PC = 0x40. -/
def ready (w : Word) : State := before 0xFFFFFD 0x8000 [(0xFFFFFD, 2), (0xFFFFFE, 6)] w

theorem running_ready : Running (ready 0x06000000) := ⟨rfl, rfl⟩

theorem witness_DecodeOfEncode : legalOpcodeMap defaultOpcodeMap = true := by decide

theorem witness_EncodeOfDecode :
    legalOpcodeMap defaultOpcodeMap = true ∧ decodeWith defaultOpcodeMap 0x83FFFFFF#32 = .ok (.push 0xFFFFFF) ∧
    decodeWith defaultOpcodeMap 0x06FFFFFF#32 = .ok .add := by decide

theorem witness_IgnoredBits :
    (isAddressed 0x83FFFFFF#32 = true ∧ 0x83FFFFFF#32 &&& 0xFCFFFFFF#32 = 0x80FFFFFF#32 &&& 0xFCFFFFFF#32) ∧
    (isAddressed 0x06ABCDEF#32 = false ∧ 0x06ABCDEF#32 &&& 0xFF000000#32 = 0x06000000#32 &&& 0xFF000000#32) ∧
    legalOpcodeMap defaultOpcodeMap = true ∧ (Instr.push 7).mnemonic.format = .a ∧ Instr.add.mnemonic.format = .n := by
  decide

theorem witness_ReservedMicroops :
    uREAD ∈ fetchProgram ∧ uWRITE ∈ microprogram .add State.reset ∧
    (MicroInstr.mk 3 0 0 0 0 0).classAssigned = false ∧ (MicroInstr.mk 7 0 0 0 0 0).classAssigned = false ∧
    (MicroInstr.mk 0 0 0 0 0 0x050).cls = 0 ∧ (MicroInstr.mk 0 0 0 0 0 0x050).shiftAssigned = false ∧
    (MicroInstr.mk 0 0 0 0 0 0x070).shiftAssigned = false ∧
    (MicroInstr.mk 1 0 0 0 0 0x050).shiftAssigned = false ∧ (MicroInstr.mk 2 0 0 0 0 0x070).shiftAssigned = false ∧
    ∃ r, aluCompute (gather State.reset 0) (gather State.reset 0) 0 = .ok r :=
  ⟨by decide, by decide, by decide, by decide, by decide, by decide, by decide, by decide, by decide, ⟨_, rfl⟩⟩

theorem witness_AluUntransformedLaws : (0xFFFFFFFF#32 : Word) ≠ 0 ∧ (1#32 : Word) ≠ 0 := by decide

theorem witness_UnassignedOpcodes :
    Running (ready 0) ∧ (ready 0).opcodeMap = defaultOpcodeMap ∧ ∃ e, decode (fetchedWord (ready 0)) = .error e :=
  ⟨⟨rfl, rfl⟩, rfl, _, rfl⟩

/-- A product of two negative operands (V = 1), a quotient of them, a sum, and an AND of operands of one sign. -/
theorem witness_OverflowFlag :
    aluResult .mul (-1) (-1) = .ok 1 ∧ aluResult .div (-6) (-3) = .ok 2 ∧ aluResult .add 1 1 = .ok 2 ∧
    aluResult .and 3 1 = .ok 1 ∧ aluResult .and (-1) (-1) = .ok (-1) ∧ (aluFlags (-1) (-1) 1).v = true := by decide

/-- Both sides of the equivalence hold for DIV by 0, and neither for DIV by 1. -/
theorem witness_AluFaults :
    aluCompute 5 0 (aluCode .div .id .id) = .error .divisionByZero ∧ applyTransform .id ((0#32 : Word).toNat : Int) = 0 ∧
    aluCompute 5 1 (aluCode .div .id .id) ≠ .error .divisionByZero := by decide

theorem witness_LaneSettings :
    ∀ comm ∈ [0x00A#10, 0x38A#10, 0x00F#10, 0x08F#10, 0x004#10, 0x001#10, 0x000#10, 0x380#10],
      comm.extractLsb' 4 3 = 0#3 ∧ comm.extractLsb' 0 4 ∈ [0b1010#4, 0b1111#4, 0b0100#4, 0b0001#4, 0b0000#4] := by decide

theorem witness_ShiftStage :
    (0x010#10).extractLsb' 4 3 = 1#3 ∧ (0x0A0#10).extractLsb' 4 3 = 2#3 ∧ (0x03F#10).extractLsb' 4 3 = 3#3 ∧
    (0x040#10).extractLsb' 4 3 = 4#3 ∧ 5 ≤ ((0x050#10).extractLsb' 4 3).toNat ∧
    5 ≤ ((0x070#10).extractLsb' 4 3).toNat := by decide

/-- The transfer of `cmp`: no target, all flags committed. -/
theorem witness_FlagCommit :
    (xfer mNone .add .id mDR .neg mBR (commPASS ||| gateNZVC)).cls = 0#3 ∧
    (xfer mNone .add .id mDR .neg mBR (commPASS ||| gateNZVC)).tgt.getLsbD 5 = false ∧
    ∃ res f t,
      aluCompute (gather State.reset mDR) (gather State.reset mBR) (aluCode .add .id .neg) = .ok (res, f) ∧
      dataPath (xfer mNone .add .id mDR .neg mBR (commPASS ||| gateNZVC)) State.reset = .ok t :=
  ⟨by decide, by decide, _, _, _, rfl, rfl⟩

/-- `SR <- PASS(ADD(id(DR), id(-)))` runs, and it changes SR; it stands in the microprogram of `popf`. -/
theorem witness_StatusWriteBack :
    (move mSR mDR commPASS).cls = 0#3 ∧ (move mSR mDR commPASS).tgt.getLsbD 5 = true ∧
    ∃ res f out t,
      aluCompute (gather State.reset mDR) (gather State.reset mNone) (move mSR mDR commPASS).alu = .ok (res, f) ∧
      commutate res commPASS = .ok out ∧ dataPath (move mSR mDR commPASS) State.reset = .ok t ∧
      t.sr ≠ State.reset.sr ∧ move mSR mDR commPASS ∈ fetchProgram ++ microprogram .popf State.reset :=
  ⟨by decide, by decide, _, _, _, _, rfl, rfl, rfl, by decide, by decide⟩

theorem witness_MemoryRange :
    (0x00FFFFFF#32 : Word).toNat < 2 ^ 24 ∧ 2 ^ 24 ≤ (0x01000000#32 : Word).toNat ∧
    2 ^ 24 ≤ (0xFFFFFFFF#32 : Word).toNat ∧ 2 ^ 24 ≤ { State.reset with ar := 0x01000000 }.ar.toNat := by decide

theorem witness_CanonicalMemory :
    (memOf [(5, 1), (4, 2)]).wf = true ∧ (memOf [(4, 2), (5, 1)]).wf = true ∧
    (memOf [(5, 1), (4, 2)]).init = (memOf [(4, 2), (5, 1)]).init ∧
    ∀ a, (memOf [(5, 1), (4, 2)]).read a = (memOf [(4, 2), (5, 1)]).read a :=
  ⟨by decide, by decide, rfl, fun _ => rfl⟩

theorem witness_DivResult : (ready 0x0C000000).tos ≠ 0 ∧ State.reset.tos = 0 := by decide

/-- `div` with TOS = 0 and NOS = 5. -/
def divByZero : State := before 0xFFFFFD 0x8000 [(0xFFFFFE, 5)] 0x0C000000

theorem witness_DivideByZeroCycle :
    Running divByZero ∧ decodeWith divByZero.opcodeMap (fetchedWord divByZero) = .ok .div ∧ divByZero.tos = 0 ∧
    ∃ t, step divByZero = .next t ∧ t.faultStatus = some .divisionByZero :=
  ⟨⟨rfl, rfl⟩, by decide, by decide, _, rfl, by decide⟩

theorem witness_ShiftResults :
    (before 0xFFFFFD 0x8000 [] 0).shiftFlags = .pre ∧ (beforePost 0xFFFFFD 0x8000 [] 0).shiftFlags = .post := by decide

theorem witness_PopfResult :
    Running (ready 0x24000000) ∧ decodeWith (ready 0x24000000).opcodeMap (fetchedWord (ready 0x24000000)) = .ok .popf ∧
    (ready 0x24000000).tos.getLsbD 15 = false := ⟨⟨rfl, rfl⟩, by decide, by decide⟩

theorem witness_PushResults : (ready 0x22000000).flagRUN = true := by decide

theorem witness_NopHaltEiDiResult :
    Running (ready 0x04000000) ∧ decodeWith (ready 0x04000000).opcodeMap (fetchedWord (ready 0x04000000)) = .ok .halt :=
  ⟨⟨rfl, rfl⟩, by decide⟩

/-- POPF then RET; and an IRET that pops a word with bit 15 = 0. -/
theorem witness_IretResult :
    (∃ t u, exec .popf (ready 0x38000000) = .next t ∧ exec .ret t = .next u) ∧
    Running (ready 0x38000000) ∧ decodeWith (ready 0x38000000).opcodeMap (fetchedWord (ready 0x38000000)) = .ok .iret ∧
    (ready 0x38000000).tos.getLsbD 15 = false := ⟨⟨_, _, rfl, rfl⟩, ⟨rfl, rfl⟩, by decide, by decide⟩

theorem witness_StepRunsDecoded :
    Running (ready 0x06000000) ∧ decodeWith (ready 0x06000000).opcodeMap (fetchedWord (ready 0x06000000)) = .ok .add ∧
    Instr.add.wellFormed = true := ⟨running_ready, by decide, by decide⟩

theorem witness_FetchEffect :
    decodeWith (ready 0x83FFFFFF).opcodeMap (fetchedWord (ready 0x83FFFFFF)) = .ok (.push 0xFFFFFF) ∧
    (Instr.push 0xFFFFFF).mnemonic.format = .a := by decide

/-- An all-zero cell decodes to nothing. -/
theorem witness_UnknownOpcodeCycle :
    Running (ready 0) ∧ (∀ i, decodeWith (ready 0).opcodeMap (fetchedWord (ready 0)) ≠ .ok i) ∧
    (∀ i, decodeWith (ready 0xFF123456).opcodeMap (fetchedWord (ready 0xFF123456)) ≠ .ok i) := by
  refine ⟨⟨rfl, rfl⟩, fun i h => ?_, fun i h => ?_⟩
  · have e : decodeWith (ready 0).opcodeMap (fetchedWord (ready 0)) = .error (.unassigned 0) := by decide
    exact nomatch e.symm.trans h
  · have e : decodeWith (ready 0xFF123456).opcodeMap (fetchedWord (ready 0xFF123456)) = .error (.unassigned 0xFF) := by
      decide
    exact nomatch e.symm.trans h

theorem witness_EndedRunsStop :
    { ready 0 with faultStatus := some .unknownOpcode }.faultStatus = some .unknownOpcode ∧
    (before 0xFFFFFD 0x4003 [] 0).faultStatus = none ∧ (before 0xFFFFFD 0x4003 [] 0).flagRUN = false ∧
    Running (ready 0x06000000) ∧
    Running (ready 0x04000000) ∧ decodeWith (ready 0x04000000).opcodeMap (fetchedWord (ready 0x04000000)) = .ok .halt ∧
    ∃ u, exec .halt (fetchedState (ready 0x04000000)) = .next u ∧ u.faultStatus = none ∧ u.flagRUN = false :=
  ⟨by decide, by decide, by decide, running_ready, ⟨rfl, rfl⟩, by decide, _, rfl, by decide, by decide⟩

theorem witness_OnlyDivFaults :
    Running divByZero ∧ (∃ t, step divByZero = .next t ∧ t.faultStatus = some .divisionByZero) ∧
    Running (ready 0) ∧ (∃ t, step (ready 0) = .next t ∧ t.faultStatus = some .unknownOpcode) :=
  ⟨⟨rfl, rfl⟩, ⟨_, rfl, by decide⟩, ⟨rfl, rfl⟩, _, rfl, by decide⟩

theorem witness_TickTable :
    Running (ready 0x06000000) ∧ decodeWith (ready 0x06000000).opcodeMap (fetchedWord (ready 0x06000000)) = .ok .add ∧
    Running (ready 0) ∧ decodeWith (ready 0).opcodeMap (fetchedWord (ready 0)) = .error (.unassigned 0) :=
  ⟨running_ready, by decide, ⟨rfl, rfl⟩, by decide⟩

theorem witness_InstructionCounter :
    Running (ready 0x06000000) ∧ (∃ t, step (ready 0x06000000) = .next t ∧ t.faultStatus = none) ∧
    Running (ready 0) ∧ (∃ t, step (ready 0) = .next t ∧ t.faultStatus ≠ none) :=
  ⟨running_ready, ⟨_, rfl, by decide⟩, ⟨rfl, rfl⟩, _, rfl, by decide⟩

/-- `cmp` sets N here, `halt` clears RUN, `ei` sets IE, `popf` writes a reserved bit. -/
theorem witness_StatusRegisterWriters :
    (∃ t, step (before 0xFFFFFD 0x8000 [(0xFFFFFD, 1)] 0x1E000000) = .next t ∧ t.sr.getLsbD 3 ≠ (0x8000#32).getLsbD 3) ∧
    (∃ t, step (ready 0x04000000) = .next t ∧ t.sr.getLsbD 15 ≠ (ready 0x04000000).sr.getLsbD 15) ∧
    (∃ t, step (ready 0x34000000) = .next t ∧ t.sr.getLsbD 14 ≠ (ready 0x34000000).sr.getLsbD 14) ∧
    (∃ t, step (before 0xFFFFFD 0x8000 [(0xFFFFFD, 0xFFFFFFFF)] 0x24000000) = .next t ∧
      t.sr.getLsbD 16 ≠ (0x8000#32).getLsbD 16) :=
  ⟨⟨_, rfl, by decide⟩, ⟨_, rfl, by decide⟩, ⟨_, rfl, by decide⟩, _, rfl, by decide⟩

theorem witness_ParametersFixed : ∃ t, step (ready 0x06000000) = .next t := ⟨_, rfl⟩

theorem witness_TicksReachStep :
    (ready 0x06000000).phase = .fetch ∧ (ready 0x06000000).microPos = 0 ∧ ∃ t, step (ready 0x06000000) = .next t :=
  ⟨rfl, rfl, _, rfl⟩

theorem witness_StepKeepsInv : Inv (ready 0x06000000) ∧ ∃ t, step (ready 0x06000000) = .next t :=
  ⟨⟨by decide, by decide, by decide, by decide, fun _ => ⟨rfl, rfl⟩⟩, _, rfl⟩

/-- A buffer apart from the block, and one that begins in the block's second word. -/
theorem witness_PollWithinContract :
    blockStatus 1 ∉ bufferCells (memOf [(3, 0x05000020)]) 1 ∧ blockStatus 1 ∉ bufferCells (memOf [(3, 0x08000003)]) 1 := by
  decide

/-- The poll that sets the ready flag of device 1 and fills the one cell of its buffer. -/
theorem witness_EveryLegalPoll :
    (memOf [(3, 0x04000020)]).wf = true ∧ (memOf [(2, 0x80000000), (3, 0x04000020), (0x20, 9)]).wf = true ∧
    PollLegal 1 (memOf [(3, 0x04000020)]) (memOf [(2, 0x80000000), (3, 0x04000020), (0x20, 9)]) := by
  refine ⟨by decide, by decide, ?_, ?_, by decide, by decide⟩
  · intro a h1 h2
    have hb : bufferCells (memOf [(3, 0x04000020)]) 1 = [0x20] := by decide
    have hs : blockStatus 1 = 2 := by decide
    have hm : (memOf [(3, 0x04000020)]) = ⟨0, [(3, 0x04000020)]⟩ := by decide
    have hm' : (memOf [(2, 0x80000000), (3, 0x04000020), (0x20, 9)]) =
        ⟨0, [(2, 0x80000000), (3, 0x04000020), (0x20, 9)]⟩ := by decide
    rw [hb] at h2
    rw [hs] at h1
    simp only [List.mem_singleton] at h2
    rw [hm, hm']
    simp only [Memory.read, lookupCell, Ne.symm h1, Ne.symm h2, if_false]
  · intro k hk
    have e : (memOf [(3, 0x04000020)]).read (blockStatus 1) = 0#32 := by decide
    have e' : (memOf [(2, 0x80000000), (3, 0x04000020), (0x20, 9)]).read (blockStatus 1) = 0x80000000#32 := by decide
    rw [e, e']
    by_cases h : k < 32
    · have : ∀ k : Fin 32, k.val ≠ 31 → (0x80000000#32).getLsbD k.val = (0#32).getLsbD k.val := by decide
      exact this ⟨k, h⟩ hk
    · rw [BitVec.getLsbD_of_ge _ _ (by omega), BitVec.getLsbD_of_ge _ _ (by omega)]

theorem witness_InputDevicePoll :
    readyFlag (memOf [(2, 0x80000000)]) 1 = true ∧
    (readyFlag (memOf [(3, 0x05000020)]) 1 = false ∧ csapp ≠ [] ∧
      5 = min (transferSize (memOf [(3, 0x05000020)]) 1) csapp.length ∧
      (packBytes (csapp.take 5))[1]? = some 0x70000000 ∧
      0x21 = (bufferBase (memOf [(3, 0x05000020)]) 1 + 1) % cellCount ∧ 0x21 ≠ blockStatus 1 ∧ 0x21 ≠ blockBuffer 1) ∧
    (0x22 ≠ blockStatus 1 ∧ ∀ j, j < (5 + 3) / 4 → 0x22 ≠ (bufferBase (memOf [(3, 0x05000020)]) 1 + j) % cellCount) := by
  decide

theorem witness_OutputDevicePoll :
    readyFlag (memOf [(5, 0x03000030)]) 2 = false ∧
    readyFlag (memOf [(4, 0x80000000), (5, 0x03000030)]) 2 = true ∧
    2 < transferSize (memOf [(4, 0x80000000), (5, 0x03000030)]) 2 := by decide

theorem witness_OperandTruncation : Mnemonic.push.format = .a ∧ operandValue [] (.number (-1)) = -1 := by decide

theorem witness_BytePacking : 1 < (packBytes csapp).length ∧ 3 < 4 := by decide

theorem witness_GeneratedCellsRise :
    generate defaultOpcodeMap haltProgramSource =
      .ok [{ addr := 0x20, entry := true, value := 0x04000000, labels := [startName] }] := by decide

theorem witness_ListingLineReadsBack :
    ({ addr := 0xFFFFFF, entry := true, value := 0xFFFFFFFF, labels := [startName] } : ListingLine).addr < cellCount := by
  decide

theorem witness_ListingLoads :
    LoadableListing
      [{ addr := 0x20, entry := true, value := 1, labels := [] }, { addr := 0xFFFFFF, entry := false, value := 2, labels := [] }]
      0x20 :=
  ⟨by decide, by decide, by decide, by decide⟩

theorem witness_LoadStartState :
    ∃ s, load defaultParams "000020 > 80000002".toList = .ok s := ⟨_, rfl⟩

end Sys2Proof.Tests
end

section
/-! Proofs of the family 00_scope: no step changes a parameter of the machine (00_scope.md R10). The first two parts say once what
a microinstruction, an instruction and a step can do; the third follows the parameters through them. -/

namespace Sys2Proof.Machine

/-! ## What a microinstruction can do (40_datapath.md R176 to R180) -/

/-- A transfer that completes: the ALU and the commutator answer, and of the state only registers are written, the committed SR
first and then the output to every target (R177, R180). -/
theorem transfer_ok {m : MicroInstr} {s t : State} (h : transfer m s = .ok t) :
    ∃ res f out sr', aluCompute (gather s m.lhs) (gather s m.rhs) m.alu = .ok (res, f) ∧
      commutatorApply res m.comm f s.sr = .ok (out, sr') ∧ t = State.writeRegs { s with sr := sr' } m.tgt out := by
  unfold transfer at h
  split at h
  · cases h
  · rename_i res f halu
    split at h
    · cases h
    · rename_i out sr' hcomm
      cases h
      exact ⟨res, f, out, sr', halu, hcomm, rfl⟩

/-- A READ that completes (R178). -/
theorem readCell_ok {s t : State} (h : readCell s = .ok t) :
    s.ar.toNat < cellCount ∧ t = { s with dr := s.mem.read s.ar.toNat } := by
  unfold readCell memRead at h
  by_cases ha : s.ar.toNat < cellCount
  · rw [if_pos ha] at h
    cases h
    exact ⟨ha, rfl⟩
  · rw [if_neg ha] at h
    cases h

/-- A WRITE that completes (R178). -/
theorem writeCell_ok {s t : State} (h : writeCell s = .ok t) :
    s.ar.toNat < cellCount ∧ t = { s with mem := s.mem.write s.ar.toNat s.dr } := by
  unfold writeCell at h
  split at h
  · rename_i hw
    obtain ⟨ha, rfl⟩ := memWrite_cases hw
    cases h
    exact ⟨ha, rfl⟩
  · cases h

/-- All that a microinstruction can do when it does not fault: by its class, a register transfer, a READ or a WRITE. -/
theorem dataPath_cases {m : MicroInstr} {s t : State} (h : dataPath m s = .ok t) :
    (m.cls = 0 ∧ ∃ res f out sr', aluCompute (gather s m.lhs) (gather s m.rhs) m.alu = .ok (res, f) ∧
      commutatorApply res m.comm f s.sr = .ok (out, sr') ∧ t = State.writeRegs { s with sr := sr' } m.tgt out) ∨
    (m.cls = 1 ∧ s.ar.toNat < cellCount ∧ t = { s with dr := s.mem.read s.ar.toNat }) ∨
    (m.cls = 2 ∧ s.ar.toNat < cellCount ∧ t = { s with mem := s.mem.write s.ar.toNat s.dr }) := by
  unfold dataPath at h
  split at h
  case isTrue h0 => exact .inl ⟨h0, transfer_ok h⟩
  split at h
  case isTrue => cases h
  split at h
  case isTrue h1 => exact .inr (.inl ⟨h1, readCell_ok h⟩)
  split at h
  case isTrue h2 => exact .inr (.inr ⟨h2, writeCell_ok h⟩)
  cases h

/-! ## What an instruction and a step can do (40_datapath.md R183, R187) -/

/-- The state in which an instruction's microprogram starts: format A has its operand in CR (log 8). -/
def State.withOperandOf (s : State) (i : Instr) : State :=
  match i.mnemonic.format with
  | .a => s.loadOperand i.operand
  | .n => s

/-- The meaning of every instruction is its microprogram, run (40_datapath.md R187, R190). -/
theorem exec_eq_runMicro (i : Instr) (s : State) :
    exec i s = .next (runMicro (microprogram i s) (s.withOperandOf i)) := by
  cases i <;> rfl

/-- What follows EXECUTE: the completion, or the faulted state as it is. -/
theorem afterExecute_next_cases {u t : State} (h : afterExecute (.next u) = .next t) :
    (u.faultStatus = none ∧ t = u.complete) ∨ (u.faultStatus ≠ none ∧ t = u) := by
  cases hu : u.faultStatus with
  | none =>
    rw [afterExecute_ok hu] at h
    cases h
    exact .inl ⟨rfl, rfl⟩
  | some k =>
    rw [afterExecute_faulted hu] at h
    cases h
    exact .inr ⟨by simp, rfl⟩

/-- All that a step can do: the fault of a word that decodes to nothing, or the microprogram of the decoded instruction from the
start of EXECUTE, with the completion after it unless it took a fault (40_datapath.md R183; 60_exceptions.md R401, R405). -/
theorem step_cases {s t : State} (h : step s = .next t) :
    runEnded s = none ∧
    ((∃ r, decodeWith s.fetch.opcodeMap s.fetch.cr = .error r ∧ t = s.fetch.raiseFault .unknownOpcode) ∨
     ∃ i u, decodeWith s.fetch.opcodeMap s.fetch.cr = .ok i ∧
       u = runMicro (microprogram i s.fetch.enterExecute) (s.fetch.enterExecute.withOperandOf i) ∧
       ((u.faultStatus = none ∧ t = u.complete) ∨ (u.faultStatus ≠ none ∧ t = u))) := by
  unfold step at h
  split at h
  · cases h
  · rename_i hrun
    refine ⟨hrun, ?_⟩
    split at h
    · rename_i r hdec
      cases h
      exact .inl ⟨r, hdec, rfl⟩
    · rename_i i hdec
      rw [exec_eq_runMicro] at h
      exact .inr ⟨i, _, hdec, rfl, afterExecute_next_cases h⟩

/-! ## The parameters (00_scope.md R10) -/

/-- Two states of one machine: the parameters that the state holds agree. Of the devices that is which numbers are attached; what
a device itself holds is state (R10, 60_exceptions.md R425). -/
structure SameParams (s t : State) : Prop where
  shiftFlags : t.shiftFlags = s.shiftFlags
  opcodeMap : t.opcodeMap = s.opcodeMap
  memInit : t.mem.init = s.mem.init
  attached : t.devices.map Option.isSome = s.devices.map Option.isSome

theorem SameParams.refl (s : State) : SameParams s s := ⟨rfl, rfl, rfl, rfl⟩

theorem SameParams.trans {s t u : State} (h : SameParams s t) (h' : SameParams t u) : SameParams s u where
  shiftFlags := h'.shiftFlags.trans h.shiftFlags
  opcodeMap := h'.opcodeMap.trans h.opcodeMap
  memInit := h'.memInit.trans h.memInit
  attached := h'.attached.trans h.attached

theorem raiseFault_sameParams (s : State) (k : FaultKind) : SameParams s (s.raiseFault k) := ⟨rfl, rfl, rfl, rfl⟩

theorem enterExecute_sameParams (s : State) : SameParams s s.enterExecute := ⟨rfl, rfl, rfl, rfl⟩

theorem withOperandOf_sameParams (s : State) (i : Instr) : SameParams s (s.withOperandOf i) := by
  unfold State.withOperandOf
  split
  · exact ⟨rfl, rfl, rfl, rfl⟩
  · exact .refl s

theorem fetch_sameParams (s : State) : SameParams s s.fetch := by
  rw [fetch_eq]
  exact ⟨rfl, rfl, rfl, rfl⟩

/-- The polls after an instruction write cells and device states, and attach or detach nothing (60_exceptions.md R425). -/
theorem complete_sameParams (s : State) : SameParams s s.complete where
  shiftFlags := complete_shiftFlags s
  opcodeMap := complete_opcodeMap s
  memInit := by rw [complete_mem, pollAll_init]
  attached := by rw [complete_devices, pollAll_attached]

theorem dataPath_sameParams {m : MicroInstr} {s t : State} (h : dataPath m s = .ok t) : SameParams s t := by
  obtain ⟨-, res, f, out, sr', -, -, rfl⟩ | ⟨-, -, rfl⟩ | ⟨-, -, rfl⟩ := dataPath_cases h
  · exact ⟨rfl, rfl, rfl, rfl⟩
  · exact ⟨rfl, rfl, rfl, rfl⟩
  · exact ⟨rfl, rfl, Memory.write_init _ _ _, rfl⟩

theorem runMicro_sameParams (ms : List MicroInstr) (s : State) : SameParams s (runMicro ms s) := by
  induction ms generalizing s with
  | nil => exact .refl s
  | cons m rest ih =>
    cases hm : dataPath m s with
    | error k =>
      rw [runMicro_error hm]
      exact ⟨rfl, rfl, rfl, rfl⟩
    | ok s' =>
      rw [runMicro_ok hm]
      have counted : SameParams s' { s' with ticks := s'.ticks + 1, microPos := s'.microPos + 1 } := ⟨rfl, rfl, rfl, rfl⟩
      exact ((dataPath_sameParams hm).trans counted).trans (ih _)

theorem step_sameParams {s t : State} (h : step s = .next t) : SameParams s t := by
  obtain ⟨-, ⟨r, -, rfl⟩ | ⟨i, u, -, hu, hend⟩⟩ := step_cases h
  · exact (fetch_sameParams s).trans (raiseFault_sameParams _ _)
  · have hexec : SameParams s u := by
      subst hu
      have started := (fetch_sameParams s).trans (enterExecute_sameParams _)
      exact (started.trans (withOperandOf_sameParams _ i)).trans (runMicro_sameParams _ _)
    obtain ⟨-, rfl⟩ | ⟨-, rfl⟩ := hend
    · exact hexec.trans (complete_sameParams u)
    · exact hexec

/-- Settles O46: every phase of the cycle, and so the step, keeps the parameters. -/
theorem parametersFixed : Obligations.ParametersFixed := by
  intro s t h
  obtain ⟨hshift, hmap, hinit, hdev⟩ := step_sameParams h
  exact ⟨hshift, hmap, hinit, hdev⟩

end Sys2Proof.Machine
end

section
/-! Proofs of the family 10_state, in this order: the canonical memory, the end of a run, reset, the invariant of every step, and
the writers of SR. Each of the last two is a fact about the rows of 40_datapath.md R190, checked once over all programs, and a law
that carries it from one microinstruction to a whole step. -/

namespace Sys2Proof.Machine

/-! ## The canonical memory (20_memory.md R51; log 1) -/

/-- In a list of rising indices each index is listed once: looking it up finds every listed pair. -/
theorem lookupCell_eq_some_iff {cs : List (Nat × Word)} (h : cs.Pairwise (fun x y => x.1 < y.1)) (a : Nat) (w : Word) :
    lookupCell cs a = some w ↔ (a, w) ∈ cs := by
  induction cs with
  | nil => simp [lookupCell]
  | cons c rest ih =>
    obtain ⟨b, v⟩ := c
    obtain ⟨hb, hrest⟩ := List.pairwise_cons.mp h
    by_cases hba : b = a
    · subst hba
      have hnot : (b, w) ∉ rest := fun hm => Nat.lt_irrefl b (hb _ hm)
      simp [lookupCell, hnot, eq_comm]
    · simp [lookupCell, hba, Ne.symm hba, ih hrest]

/-- The listed cells of a canonical memory are determined by its reads: they are those that do not read as MEM_INIT. -/
theorem Memory.mem_cells_iff {m : Memory} (h : m.wf = true) (e : Nat × Word) :
    e ∈ m.cells ↔ m.read e.1 = e.2 ∧ e.2 ≠ m.init := by
  obtain ⟨hrise, hlisted⟩ := (Memory.wf_iff m).mp h
  rw [← lookupCell_eq_some_iff hrise e.1 e.2, Memory.read]
  constructor
  · intro hl
    have hmem := (lookupCell_eq_some_iff hrise e.1 e.2).mp hl
    exact ⟨by simp [hl], (hlisted e hmem).2⟩
  · rintro ⟨hread, hne⟩
    cases hl : lookupCell m.cells e.1 with
    | none => exact absurd (by simpa [hl] using hread.symm) hne
    | some w => simpa [hl] using hread

/-- Settles O16: both lists of cells rise and have the same members. -/
theorem canonicalMemory : Obligations.CanonicalMemory := by
  intro m m' hm hm' hinit hread
  obtain ⟨hrise, -⟩ := (Memory.wf_iff m).mp hm
  obtain ⟨hrise', -⟩ := (Memory.wf_iff m').mp hm'
  have hirrefl : Std.Irrefl (fun x y : Nat × Word => x.1 < y.1) := ⟨fun x => Nat.lt_irrefl x.1⟩
  have hasymm : Std.Antisymm (fun x y : Nat × Word => x.1 < y.1) := ⟨fun _ _ h h' => absurd h (Nat.lt_asymm h')⟩
  have hcells : m.cells = m'.cells := hrise.eq_of_mem_iff hrise' (fun e => by
    rw [Memory.mem_cells_iff hm, Memory.mem_cells_iff hm', hread, hinit])
  cases m
  cases m'
  simp_all

/-! ## Where a run ends (10_state.md R39; 40_datapath.md R183) -/

theorem runEnded_eq_none_iff (s : State) : runEnded s = none ↔ Running s := by
  unfold runEnded
  constructor
  · intro h
    split at h
    · cases h
    · split at h
      · exact ⟨‹_›, ‹_›⟩
      · cases h
  · rintro ⟨hfault, hrun⟩
    simp [hfault, hrun]

theorem step_of_faulted {s : State} {k : FaultKind} (h : s.faultStatus = some k) : step s = .fault (.runFaulted k) := by
  simp [step, runEnded, h]

theorem step_of_halted {s : State} (hfault : s.faultStatus = none) (hrun : s.flagRUN = false) :
    step s = .fault .runHalted := by
  simp [step, runEnded, hfault, hrun]

theorem fetch_enterExecute (s : State) : s.fetch.enterExecute = fetchedState s := by
  rw [fetch_eq]
  rfl

theorem fetch_opcodeMap (s : State) : s.fetch.opcodeMap = s.opcodeMap := by rw [fetch_eq]

theorem fetch_cr (s : State) : s.fetch.cr = fetchedWord s := by
  rw [fetch_eq]
  rfl

/-- The cycle of a state that runs, around `exec` (40_datapath.md R183). -/
theorem step_of_decoded {s : State} {i : Instr} (h : Running s)
    (hdec : decodeWith s.opcodeMap (fetchedWord s) = .ok i) : step s = afterExecute (exec i (fetchedState s)) := by
  simp only [step, (runEnded_eq_none_iff s).mpr h, fetch_opcodeMap, fetch_cr, hdec, fetch_enterExecute]

theorem step_of_undecoded {s : State} {r : DecodeReject} (h : Running s)
    (hdec : decodeWith s.opcodeMap (fetchedWord s) = .error r) :
    step s = .next (s.fetch.raiseFault .unknownOpcode) := by
  simp only [step, (runEnded_eq_none_iff s).mpr h, fetch_opcodeMap, fetch_cr, hdec]

/-- A run that has not ended takes its step: no instruction stops the machine inside a cycle. -/
theorem step_of_running {s : State} (h : Running s) : ∃ t, step s = .next t := by
  cases hdec : decodeWith s.opcodeMap (fetchedWord s) with
  | error r => exact ⟨_, step_of_undecoded h hdec⟩
  | ok i =>
    rw [step_of_decoded h hdec, exec_eq_runMicro]
    exact ⟨_, rfl⟩

/-- An instruction that clears RUN completes, is polled after, and the step after that stops (70_reset_and_hazards.md R472). -/
theorem haltsAfter_of_exec {s u : State} {i : Instr} (h : Running s)
    (hdec : decodeWith s.opcodeMap (fetchedWord s) = .ok i) (hexec : exec i (fetchedState s) = .next u)
    (hfault : u.faultStatus = none) (hrun : u.flagRUN = false) : HaltsAfter i s := by
  have hstep : step s = .next u.complete := by rw [step_of_decoded h hdec, hexec, afterExecute_ok hfault]
  exact ⟨u, hexec, hstep, step_of_halted hfault hrun⟩

/-- Settles O41: the two ends of a run, and the step of every other state. -/
theorem endedRunsStop : Obligations.EndedRunsStop :=
  ⟨fun _ _ => step_of_faulted, fun _ => step_of_halted, fun _ => step_of_running, fun _ _ _ => haltsAfter_of_exec⟩

/-! ## Reset (10_state.md R36) -/

/-- Settles O48: a launch with the default parameters. -/
theorem resetValues : Obligations.ResetValues :=
  ⟨rfl, rfl, rfl, rfl, rfl, rfl, rfl, Memory.read_blank 0, rfl, rfl, rfl, rfl, rfl, rfl, rfl, rfl⟩

theorem setWidth_addr_lt (a : Addr) : (a.setWidth 32).toNat < cellCount := by
  rw [← trunc24_setWidth]
  exact trunc24_lt _

/-- A launch has the invariant, whatever the parameters and the entry: both addresses have 24 bits. -/
theorem launch_inv (p : Params) (entry : Addr) {m : Memory} (h : m.wf = true) : Inv (State.launch p entry m) where
  pc := setWidth_addr_lt entry
  sp := setWidth_addr_lt p.spReset
  ar := (by decide : (0#32).toNat < cellCount)
  mem := h
  boundary := fun _ => ⟨rfl, rfl⟩

/-- Settles O49: reset is a launch on a blank memory. -/
theorem resetHasInv : Obligations.ResetHasInv := launch_inv _ _ (Memory.wf_blank _)

/-! ## The invariant of every step (10_state.md R22, R23, R25; 40_datapath.md R191) -/

/-- The part of the invariant that holds at every tick, inside a cycle too. -/
structure AddressesBounded (s : State) : Prop where
  pc : s.pc.toNat < cellCount
  sp : s.sp.toNat < cellCount
  ar : s.ar.toNat < cellCount
  mem : s.mem.wf = true

theorem Inv.addressesBounded {s : State} (h : Inv s) : AddressesBounded s := ⟨h.pc, h.sp, h.ar, h.mem⟩

/-- Raising a fault, entering a phase, installing an operand and counting change neither an address register nor the memory. -/
theorem AddressesBounded.of_eq {s t : State} (h : AddressesBounded s) (hpc : t.pc = s.pc) (hsp : t.sp = s.sp)
    (har : t.ar = s.ar) (hmem : t.mem = s.mem) : AddressesBounded t :=
  ⟨hpc ▸ h.pc, hsp ▸ h.sp, har ▸ h.ar, hmem ▸ h.mem⟩

/-- A transfer that writes PC, SP or AR passes its result through CUTB (40_datapath.md R191). -/
def cutsAddresses (m : MicroInstr) : Bool :=
  decide (m.tgt.getLsbD Reg.pc.maskBit ∨ m.tgt.getLsbD Reg.sp.maskBit ∨ m.tgt.getLsbD Reg.ar.maskBit →
    m.comm = commCUTB)

/-- What holds of the one transfer of a jump holds of the jump, taken or not. -/
theorem jumpProgram_all {p : MicroInstr → Bool} (h : p uPcCr = true) (taken : Bool) :
    (jumpProgram taken).all p = true := by
  cases taken <;> simp [jumpProgram, h]

/-- Every row of 40_datapath.md R190 keeps to that. -/
theorem microprogram_cutsAddresses (i : Instr) (s : State) : (microprogram i s).all cutsAddresses = true := by
  cases i with
  | shl | shr | rol | ror =>
    simp only [microprogram]
    cases s.shiftFlags <;> rfl
  | jz | je | jnz | jg | jge | jl | jle => exact jumpProgram_all rfl _
  | _ => rfl

/-- What the commutator answers, by its two outputs (40_datapath.md R170). -/
theorem commutatorApply_ok {v out sr sr' : Word} {comm : BitVec 10} {f : AluFlags}
    (h : commutatorApply v comm f sr = .ok (out, sr')) : commutate v comm = .ok out ∧ sr' = commitFlags comm f sr := by
  unfold commutatorApply at h
  split at h
  · cases h
    exact ⟨‹_›, rfl⟩
  · cases h

/-- A register under a target mask is below a bound if its old value is, and the new one when the mask names it. -/
theorem selected_lt {mask : BitVec 8} {r : Reg} {v old : Word} {b : Nat} (hold : old.toNat < b)
    (hv : mask.getLsbD r.maskBit = true → v.toNat < b) : (selected mask r v old).toNat < b := by
  unfold selected
  split
  · exact hv ‹_›
  · exact hold

theorem dataPath_addressesBounded {m : MicroInstr} {s t : State} (hcut : cutsAddresses m = true)
    (hs : AddressesBounded s) (h : dataPath m s = .ok t) : AddressesBounded t := by
  obtain ⟨-, res, f, out, sr', -, hcomm, rfl⟩ | ⟨-, -, rfl⟩ | ⟨-, har, rfl⟩ := dataPath_cases h
  · have hout : (m.tgt.getLsbD Reg.pc.maskBit ∨ m.tgt.getLsbD Reg.sp.maskBit ∨ m.tgt.getLsbD Reg.ar.maskBit) →
        out.toNat < cellCount := by
      intro htgt
      obtain ⟨hc, -⟩ := commutatorApply_ok hcomm
      rw [of_decide_eq_true hcut htgt, commutate_CUTB] at hc
      cases hc
      exact trunc24_lt res
    exact ⟨selected_lt hs.pc fun hb => hout (.inl hb), selected_lt hs.sp fun hb => hout (.inr (.inl hb)),
      selected_lt hs.ar fun hb => hout (.inr (.inr hb)), hs.mem⟩
  · exact hs.of_eq rfl rfl rfl rfl
  · exact ⟨hs.pc, hs.sp, hs.ar, Memory.wf_write hs.mem har _⟩

theorem runMicro_addressesBounded {ms : List MicroInstr} {s : State} (hcut : ms.all cutsAddresses = true)
    (hs : AddressesBounded s) : AddressesBounded (runMicro ms s) := by
  induction ms generalizing s with
  | nil => exact hs
  | cons m rest ih =>
    obtain ⟨hm, hrest⟩ := Bool.and_eq_true_iff.mp hcut
    cases hd : dataPath m s with
    | error k =>
      rw [runMicro_error hd]
      exact hs.of_eq rfl rfl rfl rfl
    | ok s' =>
      rw [runMicro_ok hd]
      exact ih hrest ((dataPath_addressesBounded hm hs hd).of_eq rfl rfl rfl rfl)

/-- FETCH cuts PC and AR by its own two transfers (40_datapath.md R185). -/
theorem fetch_addressesBounded {s : State} (hs : AddressesBounded s) : AddressesBounded s.fetch := by
  rw [fetch_eq]
  exact ⟨trunc24_lt _, hs.sp, trunc24_lt _, hs.mem⟩

theorem withOperandOf_addressesBounded {s : State} (hs : AddressesBounded s) (i : Instr) :
    AddressesBounded (s.withOperandOf i) := by
  unfold State.withOperandOf
  split
  · exact hs.of_eq rfl rfl rfl rfl
  · exact hs

/-- The polls keep the memory's canonical form, and write no register (60_exceptions.md R425). -/
theorem complete_addressesBounded {s : State} (hs : AddressesBounded s) : AddressesBounded s.complete :=
  ⟨hs.pc, hs.sp, hs.ar, pollAll_wf _ _ hs.mem⟩

theorem AddressesBounded.inv_of_faulted {s : State} (h : AddressesBounded s) (hfault : s.faultStatus ≠ none) : Inv s :=
  ⟨h.pc, h.sp, h.ar, h.mem, fun hnone => absurd hnone hfault⟩

/-- Settles O50: FETCH and the microprogram keep the addresses bounded, and a cycle ends in a fault or at the
top of the next. -/
theorem stepKeepsInv : Obligations.StepKeepsInv := by
  intro s t hs h
  have hfetch := fetch_addressesBounded hs.addressesBounded
  obtain ⟨-, ⟨r, -, rfl⟩ | ⟨i, u, -, hu, hend⟩⟩ := step_cases h
  · have hraised : AddressesBounded (s.fetch.raiseFault .unknownOpcode) := hfetch.of_eq rfl rfl rfl rfl
    exact hraised.inv_of_faulted (by simp)
  · have hentered : AddressesBounded s.fetch.enterExecute := hfetch.of_eq rfl rfl rfl rfl
    have hexec : AddressesBounded u := by
      rw [hu]
      exact runMicro_addressesBounded (microprogram_cutsAddresses i _) (withOperandOf_addressesBounded hentered i)
    obtain ⟨-, rfl⟩ | ⟨hfault, rfl⟩ := hend
    · obtain ⟨hpc, hsp, har, hmem⟩ := complete_addressesBounded hexec
      exact ⟨hpc, hsp, har, hmem, fun _ => ⟨complete_phase u, complete_microPos u⟩⟩
    · exact hexec.inv_of_faulted hfault

/-! ## The writers of SR (10_state.md R28 to R31; 40_datapath.md R175, R180) -/

/-- What can write bit `k` of SR in one microinstruction: SR among its targets, or the commit gate of that bit. -/
def writesStatusBit (m : MicroInstr) (k : Nat) : Prop :=
  m.tgt.getLsbD Reg.sr.maskBit = true ∨ (k = 0 ∧ m.comm.getLsbD 9 = true) ∨ (k = 1 ∧ m.comm.getLsbD 8 = true) ∨
  ((k = 2 ∨ k = 3) ∧ m.comm.getLsbD 7 = true)

/-- The commit stage, bit by bit (40_datapath.md R175). -/
theorem getLsbD_commitFlags (comm : BitVec 10) (f : AluFlags) (sr : Word) (k : Nat) :
    (commitFlags comm f sr).getLsbD k =
      if k = 0 ∧ comm.getLsbD 9 = true then f.c
      else if k = 1 ∧ comm.getLsbD 8 = true then f.v
      else if k = 2 ∧ comm.getLsbD 7 = true then f.z
      else if k = 3 ∧ comm.getLsbD 7 = true then f.n
      else sr.getLsbD k := by
  have hV (w : Word) : (commitV f w).getLsbD k = if k = 1 then f.v else w.getLsbD k :=
    getLsbD_putBit w 1 k f.v (by decide)
  have hC (w : Word) : (commitC f w).getLsbD k = if k = 0 then f.c else w.getLsbD k :=
    getLsbD_putBit w 0 k f.c (by decide)
  simp only [commitFlags, apply_ite (BitVec.getLsbD · k), hC, hV, getLsbD_commitNZ]
  clear hV hC
  generalize sr.getLsbD k = old
  grind

/-- A bit of SR that the commit stage changes has its gate set. -/
theorem commitFlags_changed {comm : BitVec 10} {f : AluFlags} {sr : Word} {k : Nat}
    (h : (commitFlags comm f sr).getLsbD k ≠ sr.getLsbD k) :
    (k = 0 ∧ comm.getLsbD 9 = true) ∨ (k = 1 ∧ comm.getLsbD 8 = true) ∨
      ((k = 2 ∨ k = 3) ∧ comm.getLsbD 7 = true) := by
  rw [getLsbD_commitFlags] at h
  grind

theorem dataPath_sr_changed {m : MicroInstr} {s t : State} {k : Nat} (h : dataPath m s = .ok t)
    (hk : t.sr.getLsbD k ≠ s.sr.getLsbD k) : writesStatusBit m k := by
  obtain ⟨-, res, f, out, sr', -, hcomm, rfl⟩ | ⟨-, -, rfl⟩ | ⟨-, -, rfl⟩ := dataPath_cases h
  · obtain ⟨-, rfl⟩ := commutatorApply_ok hcomm
    rw [writeRegs_sr, selected] at hk
    split at hk
    · exact .inl ‹_›
    · exact .inr (commitFlags_changed hk)
  · exact absurd rfl hk
  · exact absurd rfl hk

theorem runMicro_sr_changed {ms : List MicroInstr} {s : State} {k : Nat}
    (hk : (runMicro ms s).sr.getLsbD k ≠ s.sr.getLsbD k) : ∃ m ∈ ms, writesStatusBit m k := by
  induction ms generalizing s with
  | nil => exact absurd rfl hk
  | cons m rest ih =>
    cases hd : dataPath m s with
    | error e =>
      rw [runMicro_error hd] at hk
      exact absurd rfl hk
    | ok s' =>
      rw [runMicro_ok hd] at hk
      by_cases hhead : s'.sr.getLsbD k = s.sr.getLsbD k
      · obtain ⟨m', hmem, hw⟩ := ih (hhead ▸ hk)
        exact ⟨m', List.mem_cons_of_mem m hmem, hw⟩
      · exact ⟨m, List.mem_cons_self, dataPath_sr_changed hd hhead⟩

/-- The lists of 10_state.md R28 to R31, for one microinstruction of an instruction: who may have SR among the targets, who may
commit V or C, and who may commit N and Z. -/
def statusWriterListed (i : Instr) (m : MicroInstr) : Bool :=
  decide (m.tgt.getLsbD Reg.sr.maskBit → i ∈ [Instr.popf, .iret, .halt, .ei, .di]) &&
  decide (m.comm.getLsbD 8 ∨ m.comm.getLsbD 9 → i ∈ [Instr.add, .sub, .mul, .div, .cmp, .inc, .dec, .neg]) &&
  decide (m.comm.getLsbD 7 → i ∈ [Instr.add, .sub, .mul, .div, .cmp, .inc, .dec, .neg] ∨
    i ∈ [Instr.and, .or, .not, .shl, .shr, .rol, .ror] ∨ i.mnemonic = .check)

/-- Every row of 40_datapath.md R190 keeps to the lists. -/
theorem microprogram_statusWriterListed (i : Instr) (s : State) :
    (microprogram i s).all (statusWriterListed i) = true := by
  cases i with
  | shl | shr | rol | ror =>
    simp only [microprogram]
    cases s.shiftFlags <;> rfl
  | jz | je | jnz | jg | jge | jl | jle => exact jumpProgram_all rfl _
  | _ => rfl

/-- Only these instructions have a microinstruction that can write bit `k` of SR. -/
theorem writer_of_writesStatusBit {i : Instr} {s : State} {m : MicroInstr} {k : Nat} (hm : m ∈ microprogram i s)
    (hw : writesStatusBit m k) :
    i ∈ [Instr.popf, .iret, .halt, .ei, .di] ∨
    (k < 4 ∧ i ∈ [Instr.add, .sub, .mul, .div, .cmp, .inc, .dec, .neg]) ∨
    ((k = 2 ∨ k = 3) ∧ (i ∈ [Instr.and, .or, .not, .shl, .shr, .rol, .ror] ∨ i.mnemonic = .check)) := by
  have hlist := List.all_eq_true.mp (microprogram_statusWriterListed i s) m hm
  simp only [statusWriterListed, Bool.and_eq_true, decide_eq_true_eq] at hlist
  obtain ⟨⟨htgt, hVC⟩, hNZ⟩ := hlist
  obtain h | ⟨hk, h⟩ | ⟨hk, h⟩ | ⟨hk, h⟩ := hw
  · exact .inl (htgt h)
  · exact .inr (.inl ⟨by omega, hVC (.inr h)⟩)
  · exact .inr (.inl ⟨by omega, hVC (.inl h)⟩)
  · obtain hi | hi := hNZ h
    · exact .inr (.inl ⟨by omega, hi⟩)
    · exact .inr (.inr ⟨hk, hi⟩)

/-! The three programs with SR as a target that write one bit of it (46_privileged.md R302 to R304). -/

theorem runMicro_halt_sr (s : State) : (runMicro haltProgram s).sr = putBit s.sr 15 false := by
  rw [haltProgram, runMicro_bit15, runMicro_ok (dataPath_uSrClear _)]
  rfl

theorem runMicro_di_sr (s : State) : (runMicro diProgram s).sr = putBit s.sr 14 false := by
  rw [diProgram, runMicro_bit14, runMicro_ok (dataPath_uSrClear _)]
  rfl

theorem runMicro_ei_sr (s : State) : (runMicro eiProgram s).sr = putBit s.sr 14 true := by
  have hOr : ~~~(~~~s.sr &&& ~~~0x00004000#32) = s.sr ||| 0x00004000#32 := by
    rw [BitVec.not_and, BitVec.not_not, BitVec.not_not]
  rw [eiProgram, runMicro_bit14, runMicro_ok (dataPath_drNorSr _), runMicro_ok (dataPath_srNotDr _)]
  exact hOr

theorem eq_of_putBit_changed {w : Word} {j k : Nat} {b : Bool} (hj : j < 32)
    (h : (putBit w j b).getLsbD k ≠ w.getLsbD k) : k = j := by
  by_contra hk
  exact h (by rw [getLsbD_putBit w j k b hj, if_neg hk])

theorem eq_check_of_mnemonic {i : Instr} (h : i.mnemonic = .check) : ∃ d, i = .check d := by
  cases i with
  | check d => exact ⟨d, rfl⟩
  | _ => cases h

theorem withOperandOf_sr (s : State) (i : Instr) : (s.withOperandOf i).sr = s.sr := by
  unfold State.withOperandOf
  split <;> rfl

/-- The microprogram alone writes SR in a step: FETCH, the operand form, the polls and a fault do not. -/
theorem step_sr {s t : State} {i : Instr} (hdec : decodeWith s.opcodeMap (fetchedWord s) = .ok i)
    (h : step s = .next t) :
    t.sr = (runMicro (microprogram i (fetchedState s)) ((fetchedState s).withOperandOf i)).sr := by
  obtain ⟨-, hcycle⟩ := step_cases h
  rw [fetch_opcodeMap, fetch_cr, fetch_enterExecute, hdec] at hcycle
  obtain ⟨r, hr, -⟩ | ⟨i', u, hi, hu, hend⟩ := hcycle
  · cases hr
  · cases hi
    rw [← hu]
    obtain ⟨-, rfl⟩ | ⟨-, rfl⟩ := hend
    · exact complete_sr u
    · rfl

/-- Settles O45: by the lists, and the one bit of `halt`, `ei` and `di`. -/
theorem statusRegisterWriters : Obligations.StatusRegisterWriters := by
  intro s t i _ hdec hstep k hk
  have hsr : ((fetchedState s).withOperandOf i).sr = s.sr := withOperandOf_sr _ i
  rw [step_sr hdec hstep, ← hsr] at hk
  obtain ⟨m, hm, hw⟩ := runMicro_sr_changed hk
  obtain htgt | hNZVC | ⟨hkNZ, hNZ⟩ := writer_of_writesStatusBit hm hw
  · simp only [List.mem_cons, List.not_mem_nil, or_false] at htgt
    obtain rfl | rfl | rfl | rfl | rfl := htgt
    · exact .inl (by simp)
    · exact .inl (by simp)
    · rw [microprogram, runMicro_halt_sr] at hk
      exact .inr (.inr (.inr (.inr ⟨eq_of_putBit_changed (by decide) hk, rfl⟩)))
    · rw [microprogram, runMicro_ei_sr] at hk
      exact .inr (.inr (.inr (.inl ⟨eq_of_putBit_changed (by decide) hk, by simp⟩)))
    · rw [microprogram, runMicro_di_sr] at hk
      exact .inr (.inr (.inr (.inl ⟨eq_of_putBit_changed (by decide) hk, by simp⟩)))
  · exact .inr (.inl hNZVC)
  · exact .inr (.inr (.inl ⟨hkNZ, hNZ.imp id eq_check_of_mnemonic⟩))

end Sys2Proof.Machine
end

section
/-! Proofs of the family 20_memory: the packing of bytes in cells, and the range of READ and WRITE. -/

namespace Sys2Proof.Machine

/-! ## The packing of bytes in cells (20_memory.md R53; 30_encoding.md R125) -/

/-- Cell `j` of a packed list: its bytes `4j` to `4j + 3`, each 0 beyond the end. -/
def packedCell (bs : List Byte) (j : Nat) : Word :=
  packWord ((bs[4 * j]?).getD 0) ((bs[4 * j + 1]?).getD 0) ((bs[4 * j + 2]?).getD 0) ((bs[4 * j + 3]?).getD 0)

/-- Four bytes on, the cells are those of the rest. -/
theorem packedCell_succ (a b c d : Byte) (rest : List Byte) (j : Nat) :
    packedCell (a :: b :: c :: d :: rest) (j + 1) = packedCell rest j := by
  have hnext : 4 * (j + 1) = 4 * j + 4 := by omega
  simp [packedCell, hnext]

theorem packBytes_length (bs : List Byte) : (packBytes bs).length = (bs.length + 3) / 4 := by
  induction bs using packBytes.induct with
  | case1 | case2 | case3 | case4 => simp [packBytes]
  | case5 a b c d rest ih =>
    simp only [packBytes, List.length_cons, ih]
    omega

/-- The cells of a packed list: a last one that is not full is one more cell, filled with 0. -/
theorem packBytes_getElem? {bs : List Byte} {j : Nat} (h : j < (packBytes bs).length) :
    (packBytes bs)[j]? = some (packedCell bs j) := by
  induction bs using packBytes.induct generalizing j with
  | case1 => exact absurd h (Nat.not_lt_zero j)
  | case2 | case3 | case4 =>
    obtain rfl : j = 0 := Nat.lt_one_iff.mp h
    rfl
  | case5 a b c d rest ih =>
    cases j with
    | zero => rfl
    | succ j =>
      rw [packBytes, List.getElem?_cons_succ, packedCell_succ]
      exact ih (Nat.lt_of_succ_lt_succ h)

/-- The bytes of a packed word, each found by passing the bytes under it. -/
theorem packWord_bytes (a b c d : Byte) :
    (packWord a b c d).extractLsb' 24 8 = a ∧ (packWord a b c d).extractLsb' 16 8 = b ∧
    (packWord a b c d).extractLsb' 8 8 = c ∧ (packWord a b c d).extractLsb' 0 8 = d := by
  have pass {n : Nat} (hi : BitVec n) (lo : Byte) (k : Nat) : (hi ++ lo).extractLsb' (k + 8) 8 = hi.extractLsb' k 8 :=
    BitVec.extractLsb'_append_eq_of_le (Nat.le_add_left 8 k)
  have hd : (packWord a b c d).extractLsb' 0 8 = d := BitVec.extractLsb'_append_eq_right
  have hc : (packWord a b c d).extractLsb' 8 8 = c := (pass _ d 0).trans BitVec.extractLsb'_append_eq_right
  have hb : (packWord a b c d).extractLsb' 16 8 = b :=
    (pass _ d 8).trans ((pass _ c 0).trans BitVec.extractLsb'_append_eq_right)
  have ha : (packWord a b c d).extractLsb' 24 8 = a :=
    (pass _ d 16).trans ((pass _ c 8).trans BitVec.extractLsb'_append_eq_left)
  exact ⟨ha, hb, hc, hd⟩

/-- Byte `i` of a packed cell is byte `4j + i` of the list. -/
theorem packedCell_byte (bs : List Byte) (j : Nat) {i : Nat} (h : i < 4) :
    (packedCell bs j).extractLsb' (24 - 8 * i) 8 = (bs[4 * j + i]?).getD 0 := by
  obtain ⟨h0, h1, h2, h3⟩ := packWord_bytes ((bs[4 * j]?).getD 0) ((bs[4 * j + 1]?).getD 0)
    ((bs[4 * j + 2]?).getD 0) ((bs[4 * j + 3]?).getD 0)
  match i, h with
  | 0, _ => exact h0
  | 1, _ => exact h1
  | 2, _ => exact h2
  | 3, _ => exact h3

/-- Settles O56: the number of cells, and each byte of each. -/
theorem bytePacking : Obligations.BytePacking := by
  refine fun bs => ⟨packBytes_length bs, fun j hj i hi => ?_⟩
  rw [packBytes_getElem? hj]
  exact packedCell_byte bs j hi

/-! ## The range of READ and WRITE (20_memory.md R55) -/

theorem memRead_of_ge {m : Memory} {a : Word} (h : cellCount ≤ a.toNat) : memRead m a = .error .addressOutOfRange :=
  if_neg (Nat.not_lt.mpr h)

theorem memWrite_of_ge {m : Memory} {a v : Word} (h : cellCount ≤ a.toNat) :
    memWrite m a v = .error .addressOutOfRange :=
  if_neg (Nat.not_lt.mpr h)

theorem dataPath_uREAD_of_ge {s : State} (h : cellCount ≤ s.ar.toNat) :
    dataPath uREAD s = .error .addressOutOfRange := by
  change readCell s = _
  rw [readCell, memRead_of_ge h]

theorem dataPath_uWRITE_of_ge {s : State} (h : cellCount ≤ s.ar.toNat) :
    dataPath uWRITE s = .error .addressOutOfRange := by
  change writeCell s = _
  rw [writeCell, memWrite_of_ge h]

/-- Settles O15: by the side of the limit on which the index is. -/
theorem memoryRange : Obligations.MemoryRange :=
  ⟨fun _ h => ⟨dataPath_uREAD_of_ge h, dataPath_uWRITE_of_ge h⟩,
   fun m a v =>
    ⟨fun h => ⟨memRead_of_lt h, m.write a.toNat v, memWrite_of_lt h, stores_write m a.toNat v⟩,
     fun h => ⟨memRead_of_ge h, memWrite_of_ge h⟩⟩⟩

end Sys2Proof.Machine
end

section
/-! Proofs of the family 30_encoding, in this order: the parts of an instruction word, the legal opcode maps, the decoder and
the encoder over them, the default table, and the layout of the microinstruction word. -/

namespace Sys2Proof.Machine

/-! ## The parts of an instruction word (30_encoding.md R81 to R84, R89, R90) -/

/-- A word is its opcode byte before its operand field. -/
theorem opcodeByte_append_operandField (w : Word) : opcodeByte w ++ operandField w = w :=
  (BitVec.extractLsb'_append_extractLsb'_eq_extractLsb' rfl).trans BitVec.extractLsb'_eq_self

theorem isAddressed_eq (w : Word) : isAddressed w = (opcodeByte w).getLsbD 7 := by
  rw [← isAddressed_word (opcodeByte w) (operandField w), opcodeByte_append_operandField]

/-- The mask that clears the submode (R89). -/
theorem and_submodeMask (w : Word) : w &&& 0xFCFFFFFF#32 = (opcodeByte w &&& 0xFC#8) ++ operandField w := by
  calc w &&& 0xFCFFFFFF#32
      = (opcodeByte w ++ operandField w) &&& (0xFC#8 ++ BitVec.allOnes 24) :=
        congrArg (· &&& 0xFCFFFFFF#32) (opcodeByte_append_operandField w).symm
    _ = (opcodeByte w &&& 0xFC#8) ++ operandField w := by rw [BitVec.and_append, BitVec.and_allOnes]

/-- The mask that clears bits 23:0 (R90). -/
theorem and_opcodeMask (w : Word) : w &&& 0xFF000000#32 = opcodeByte w ++ 0#24 := by
  calc w &&& 0xFF000000#32
      = (opcodeByte w ++ operandField w) &&& (BitVec.allOnes 8 ++ 0#24) :=
        congrArg (· &&& 0xFF000000#32) (opcodeByte_append_operandField w).symm
    _ = opcodeByte w ++ 0#24 := by rw [BitVec.and_append, BitVec.and_allOnes, BitVec.and_zero]

/-- The parts of a word can be read off it. -/
theorem word_inj {b b' : Byte} {x x' : Addr} (h : b ++ x = b' ++ x') : b = b' ∧ x = x' := by
  have hb := congrArg opcodeByte h
  have hx := congrArg operandField h
  rw [opcodeByte_word, opcodeByte_word] at hb
  rw [operandField_word, operandField_word] at hx
  exact ⟨hb, hx⟩

/-- Masking the submode off a byte keeps its format bit. -/
theorem getLsbD_seven_and_FC (b : Byte) : (b &&& 0xFC#8).getLsbD 7 = b.getLsbD 7 := by simp

/-- A byte whose submode bits are clear is its own key. -/
theorem and_FC_eq_self {b : Byte} (h1 : b.getLsbD 1 = false) (h0 : b.getLsbD 0 = false) : b &&& 0xFC#8 = b := by
  apply BitVec.eq_of_getLsbD_eq
  intro j hj
  have mask : ∀ j < 8, (0xFC#8).getLsbD j = decide (2 ≤ j) := by decide
  rw [BitVec.getLsbD_and, mask j hj]
  match j with
  | 0 => simpa using h0
  | 1 => simpa using h1
  | j + 2 => simp

/-! ## Legal opcode maps (30_encoding.md R82, R86, R89) -/

/-- What a legal map is, in the terms of its entries. -/
structure LegalMap (map : OpcodeMap) : Prop where
  total : ∀ m, m ∈ map.map (·.1)
  mnemonics : (map.map (·.1)).Nodup
  bytes : (map.map (·.2)).Nodup
  fits : ∀ e ∈ map, opcodeByteFits e.1 e.2 = true

theorem mnemonic_mem_all (m : Mnemonic) : m ∈ Mnemonic.all := by cases m <;> decide

theorem legalMap_of_legal {map : OpcodeMap} (h : legalOpcodeMap map = true) : LegalMap map := by
  simp only [legalOpcodeMap, Bool.and_eq_true, decide_eq_true_eq, List.all_eq_true, List.contains_iff_mem] at h
  obtain ⟨⟨⟨htotal, hmnemonics⟩, hbytes⟩, hfits⟩ := h
  exact ⟨fun m => htotal m (mnemonic_mem_all m), hmnemonics, hbytes, hfits⟩

/-- Bit 7 of a byte that fits tells the format (R81, R82). -/
theorem getLsbD_seven_of_fits {m : Mnemonic} {b : Byte} (h : opcodeByteFits m b = true) :
    b.getLsbD 7 = decide (m.format = .a) := by
  unfold opcodeByteFits at h
  cases hf : m.format with
  | a =>
    simp only [hf, Bool.and_eq_true] at h
    obtain ⟨⟨h7, -⟩, -⟩ := h
    exact h7
  | n =>
    simp only [hf, Bool.and_eq_true, Bool.not_eq_true'] at h
    exact h.1

/-- An entry gives its mnemonic's opcode byte. -/
theorem LegalMap.opcodeOf_eq {map : OpcodeMap} (h : LegalMap map) {m : Mnemonic} {b : Byte} (hmem : (m, b) ∈ map) :
    opcodeOf map m = b := by
  have hsame := List.inj_on_of_nodup_map h.mnemonics (opcodeOf_mem (h.total m)) hmem rfl
  exact congrArg Prod.snd hsame

theorem LegalMap.opcodeOf_fits {map : OpcodeMap} (h : LegalMap map) (m : Mnemonic) :
    opcodeByteFits m (opcodeOf map m) = true :=
  h.fits _ (opcodeOf_mem (h.total m))

/-- The search with an entry's own byte stops at that entry, if no other entry has the byte. -/
theorem lookupOpcode_of_mem {map : OpcodeMap} (hbytes : (map.map (·.2)).Nodup) {m : Mnemonic} {b : Byte}
    (hmem : (m, b) ∈ map) : lookupOpcode map m.format b = some m := by
  induction map with
  | nil => cases hmem
  | cons e rest ih =>
    obtain ⟨k, c⟩ := e
    rw [lookupOpcode]
    split
    case isTrue hfound =>
      have hsame := List.inj_on_of_nodup_map hbytes List.mem_cons_self hmem hfound.2
      exact congrArg (fun e => some e.1) hsame
    case isFalse hother =>
      obtain heq | hrest := List.mem_cons.mp hmem
      · cases heq
        exact absurd ⟨rfl, rfl⟩ hother
      · exact ih (List.nodup_cons.mp hbytes).2 hrest

/-! ## Decode and encode (30_encoding.md R87, R89, R90, R127) -/

theorem opcodeByte_encodeWith (map : OpcodeMap) (i : Instr) : opcodeByte (encodeWith map i) = opcodeOf map i.mnemonic :=
  opcodeByte_word _ _

theorem operandField_encodeWith (map : OpcodeMap) (i : Instr) : operandField (encodeWith map i) = i.operand :=
  operandField_word _ _

/-- The format bit of an encoded word is right (R83). -/
theorem LegalMap.isAddressed_encodeWith {map : OpcodeMap} (h : LegalMap map) (i : Instr) :
    isAddressed (encodeWith map i) = decide (i.mnemonic.format = .a) := by
  rw [isAddressed_eq, opcodeByte_encodeWith]
  exact getLsbD_seven_of_fits (h.opcodeOf_fits i.mnemonic)

/-- The encoder emits the submode 0b00 (R89). -/
theorem LegalMap.submode_eq_zero {map : OpcodeMap} (h : LegalMap map) {m : Mnemonic} (ha : m.format = .a) :
    (opcodeOf map m).getLsbD 1 = false ∧ (opcodeOf map m).getLsbD 0 = false := by
  have hfits := h.opcodeOf_fits m
  simp only [opcodeByteFits, ha, Bool.and_eq_true, Bool.not_eq_true'] at hfits
  obtain ⟨⟨-, h1⟩, h0⟩ := hfits
  exact ⟨h1, h0⟩

/-- The key of an encoded word is its opcode byte: the decoder's mask takes nothing off it. -/
theorem LegalMap.decodeKey_encodeWith {map : OpcodeMap} (h : LegalMap map) (i : Instr) :
    decodeKey (encodeWith map i) = opcodeOf map i.mnemonic := by
  rw [decodeKey, h.isAddressed_encodeWith, opcodeByte_encodeWith]
  split
  case isTrue ha =>
    obtain ⟨h1, h0⟩ := h.submode_eq_zero (of_decide_eq_true ha)
    exact and_FC_eq_self h1 h0
  case isFalse => rfl

theorem LegalMap.wordFormat_encodeWith {map : OpcodeMap} (h : LegalMap map) (i : Instr) :
    wordFormat (encodeWith map i) = i.mnemonic.format := by
  rw [wordFormat, h.isAddressed_encodeWith]
  cases i.mnemonic.format <;> rfl

/-- Settles O1: the search finds the mnemonic again, and the field is the operand. -/
theorem decodeOfEncode : Obligations.DecodeOfEncode := by
  intro map hlegal i
  have h := legalMap_of_legal hlegal
  have hfound : lookupOpcode map i.mnemonic.format (opcodeOf map i.mnemonic) = some i.mnemonic :=
    lookupOpcode_of_mem h.bytes (opcodeOf_mem (h.total i.mnemonic))
  rw [decodeWith_ok_iff, h.wordFormat_encodeWith, h.decodeKey_encodeWith, operandField_encodeWith]
  exact ⟨i.mnemonic, hfound, (Instr.toInstr_mnemonic i).symm⟩

/-- Settles O2: the entry that the search found gives the key back as the opcode byte. -/
theorem encodeOfDecode : Obligations.EncodeOfDecode := by
  intro map hlegal w i hdec
  obtain ⟨m, hfound, rfl⟩ := (decodeWith_ok_iff map w i).mp hdec
  obtain ⟨hmem, hformat⟩ := lookupOpcode_some hfound
  rw [encodeWith, Mnemonic.mnemonic_toInstr, (legalMap_of_legal hlegal).opcodeOf_eq hmem]
  unfold wordFormat at hformat
  unfold decodeKey
  split
  case isTrue hw =>
    rw [if_pos hw] at hformat
    rw [Mnemonic.operand_toInstr_a hformat, and_submodeMask]
  case isFalse hw =>
    rw [if_neg hw] at hformat
    rw [Mnemonic.operand_toInstr_n hformat, and_opcodeMask]
    rfl

/-- A format N mnemonic takes no operand: the field does not matter (R90). -/
theorem toInstr_eq_of_format_n {m : Mnemonic} (h : m.format = .n) (x y : Addr) : m.toInstr x = m.toInstr y := by
  have hy : (m.toInstr y).mnemonic.format = .n := by rw [Mnemonic.mnemonic_toInstr, h]
  have hxy := Instr.toInstr_n hy x
  rwa [Mnemonic.mnemonic_toInstr] at hxy

/-- Two format A words that differ in the submode only decode alike (R89). -/
theorem decodeWith_submode_ignored (map : OpcodeMap) {w w' : Word} (hw : isAddressed w = true)
    (h : w &&& 0xFCFFFFFF#32 = w' &&& 0xFCFFFFFF#32) (i : Instr) :
    decodeWith map w = .ok i ↔ decodeWith map w' = .ok i := by
  rw [and_submodeMask, and_submodeMask] at h
  obtain ⟨hkey, hfield⟩ := word_inj h
  have hw' : isAddressed w' = isAddressed w := by
    rw [isAddressed_eq, ← getLsbD_seven_and_FC, ← hkey, getLsbD_seven_and_FC, ← isAddressed_eq]
  have hformat' : wordFormat w' = wordFormat w := by rw [wordFormat, wordFormat, hw']
  have hkey' : decodeKey w' = decodeKey w := by rw [decodeKey, decodeKey, hw', if_pos hw, if_pos hw, hkey]
  rw [decodeWith_ok_iff, decodeWith_ok_iff, hformat', hkey', hfield]

/-- Two format N words with one opcode byte decode alike (R90). -/
theorem decodeWith_low_ignored (map : OpcodeMap) {w w' : Word} (hw : isAddressed w = false)
    (h : w &&& 0xFF000000#32 = w' &&& 0xFF000000#32) (i : Instr) :
    decodeWith map w = .ok i ↔ decodeWith map w' = .ok i := by
  rw [and_opcodeMask, and_opcodeMask] at h
  obtain ⟨hbyte, -⟩ := word_inj h
  have hw' : isAddressed w' = isAddressed w := by rw [isAddressed_eq, isAddressed_eq, hbyte]
  have hformat : wordFormat w = .n := by rw [wordFormat, hw]; rfl
  have hformat' : wordFormat w' = wordFormat w := by rw [wordFormat, wordFormat, hw']
  have hkey : decodeKey w' = decodeKey w := by rw [decodeKey, decodeKey, hw', hbyte]
  rw [decodeWith_ok_iff, decodeWith_ok_iff, hformat', hkey]
  refine exists_congr fun m => and_congr_right fun hfound => ?_
  have hm : m.format = .n := (lookupOpcode_some hfound).2.trans hformat
  rw [toInstr_eq_of_format_n hm (operandField w) (operandField w')]

/-- Settles O3: what the key and the operand field leave out, and what the encoder writes there. -/
theorem ignoredBits : Obligations.IgnoredBits := by
  refine ⟨fun map w w' => decodeWith_submode_ignored map, fun map w w' => decodeWith_low_ignored map,
    fun map hlegal i => ⟨fun ha => ?_, fun hn => ?_⟩⟩
  · obtain ⟨h1, h0⟩ := (legalMap_of_legal hlegal).submode_eq_zero ha
    apply BitVec.eq_of_getLsbD_eq
    intro j hj
    rw [BitVec.getLsbD_extractLsb', encodeWith, getLsbD_word]
    match j, hj with
    | 0, _ => simpa using h0
    | 1, _ => simpa using h1
  · have hzero : i.operand = 0 := by
      rw [← Instr.toInstr_n hn 0]
      exact Mnemonic.operand_toInstr_n hn 0
    exact (operandField_encodeWith map i).trans hzero

/-! ## The default table (30_encoding.md R86, R88) -/

/-- A word is rejected when the search finds nothing. -/
theorem decodeWith_error_iff (map : OpcodeMap) (w : Word) :
    (∃ e, decodeWith map w = .error e) ↔ lookupOpcode map (wordFormat w) (decodeKey w) = none := by
  rw [decodeWith_eq]
  cases lookupOpcode map (wordFormat w) (decodeKey w) <;> simp

/-- The format A keys that the table of R86 leaves out. -/
theorem lookupOpcode_default_a : ∀ b : Byte, b.getLsbD 7 = true →
    (lookupOpcode defaultOpcodeMap .a (b &&& 0xFC#8) = none ↔ 0xB4 ≤ (b &&& 0xFC#8).toNat) := by decide

/-- The format N bytes that the table of R86 leaves out. -/
theorem lookupOpcode_default_n : ∀ b : Byte, b.getLsbD 7 = false →
    (lookupOpcode defaultOpcodeMap .n b = none ↔ b = 0x00#8 ∨ 0x3A ≤ b.toNat ∨ b.getLsbD 0 = true) := by decide

/-- Settles O4: the bytes the search misses in each format, and the step of a fetched one. -/
theorem unassignedOpcodes : Obligations.UnassignedOpcodes := by
  refine ⟨fun w => ?_, ⟨_, rfl⟩, fun s hs hmap ⟨r, hdec⟩ => ?_⟩
  · rw [decode, decodeWith_error_iff, wordFormat, decodeKey]
    split
    case isTrue hw => exact lookupOpcode_default_a _ (isAddressed_eq w ▸ hw)
    case isFalse hw => exact lookupOpcode_default_n _ (isAddressed_eq w ▸ Bool.eq_false_of_not_eq_true hw)
  · have hdec' : decodeWith s.opcodeMap (fetchedWord s) = .error r := hmap ▸ hdec
    exact ⟨_, step_of_undecoded hs hdec', raiseFault_faultStatus _ _⟩

/-- Settles O5: each word meets its row of the table. -/
theorem sampleWordsDecode : Obligations.SampleWordsDecode := ⟨rfl, rfl, rfl, rfl, rfl, rfl⟩

/-! ## The microinstruction word (30_encoding.md R95) -/

/-- The packed word, field by field: each is found by passing the fields under it. -/
theorem pack_fields (m : MicroInstr) :
    m.pack.extractLsb' 0 3 = m.cls ∧ m.pack.extractLsb' 3 8 = m.tgt ∧ m.pack.extractLsb' 11 8 = m.lhs ∧
    m.pack.extractLsb' 19 8 = m.rhs ∧ m.pack.extractLsb' 27 6 = m.alu ∧ m.pack.extractLsb' 33 10 = m.comm := by
  have pass {n k : Nat} (hi : BitVec n) (lo : BitVec k) (start len : Nat) :
      (hi ++ lo).extractLsb' (start + k) len = hi.extractLsb' start len := by
    rw [BitVec.extractLsb'_append_eq_of_le (Nat.le_add_left k start), Nat.add_sub_cancel]
  have top {n k : Nat} (hi : BitVec n) (lo : BitVec k) : (hi ++ lo).extractLsb' k n = hi :=
    BitVec.extractLsb'_append_eq_left
  have low {n k : Nat} (hi : BitVec n) (lo : BitVec k) : (hi ++ lo).extractLsb' 0 k = lo :=
    BitVec.extractLsb'_append_eq_right
  unfold MicroInstr.pack
  refine ⟨low _ _, ?_, ?_, ?_, ?_, ?_⟩
  · exact (pass _ m.cls 0 8).trans (low _ _)
  · exact (pass _ m.cls 8 8).trans <| (pass _ m.tgt 0 8).trans (low _ _)
  · exact (pass _ m.cls 16 8).trans <| (pass _ m.tgt 8 8).trans <| (pass _ m.lhs 0 8).trans (low _ _)
  · exact (pass _ m.cls 24 6).trans <| (pass _ m.tgt 16 6).trans <| (pass _ m.lhs 8 6).trans <|
      (pass _ m.rhs 0 6).trans (low _ _)
  · exact (pass _ m.cls 30 10).trans <| (pass _ m.tgt 22 10).trans <| (pass _ m.lhs 14 10).trans <|
      (pass _ m.rhs 6 10).trans (top _ _)

theorem unpack_pack (m : MicroInstr) : MicroInstr.unpack m.pack = m := by
  obtain ⟨hcls, htgt, hlhs, hrhs, halu, hcomm⟩ := pack_fields m
  rw [MicroInstr.unpack, hcls, htgt, hlhs, hrhs, halu, hcomm]

/-- The fields of a word are adjacent and cover it. -/
theorem pack_unpack (w : BitVec 43) : (MicroInstr.unpack w).pack = w := by
  have join {start₁ len₁ : Nat} (start₂ len₂ : Nat) (h : start₂ = start₁ + len₁) :
      w.extractLsb' start₂ len₂ ++ w.extractLsb' start₁ len₁ = w.extractLsb' start₁ (len₂ + len₁) :=
    BitVec.extractLsb'_append_extractLsb'_eq_extractLsb' h
  unfold MicroInstr.pack MicroInstr.unpack
  rw [join 33 10 rfl, join 27 16 rfl, join 19 24 rfl, join 11 32 rfl, join 3 40 rfl]
  exact BitVec.extractLsb'_eq_self

/-- Settles O6: the fields of a packed word, and the round trip both ways. -/
theorem microWordLayout : Obligations.MicroWordLayout := by
  refine ⟨fun m => ?_, pack_unpack⟩
  obtain ⟨hcls, htgt, hlhs, hrhs, halu, hcomm⟩ := pack_fields m
  exact ⟨hcls, htgt, hlhs, hrhs, halu, hcomm, unpack_pack m⟩

end Sys2Proof.Machine
end

section
/-! Proofs of the family 30_encoding, continued: the reserved microinstruction encodings, the operand field, the cells of a
generated listing, and the listing's lines read back. -/

namespace Sys2Proof.Machine

/-! ## Reserved microinstruction encodings (30_encoding.md R100; 60_exceptions.md R404) -/

/-- Every row of 40_datapath.md R190 uses assigned encodings only. -/
theorem microprogram_wellFormed (i : Instr) (s : State) : (microprogram i s).all MicroInstr.wellFormed = true := by
  cases i with
  | shl | shr | rol | ror =>
    simp only [microprogram]
    cases s.shiftFlags <;> rfl
  | jz | je | jnz | jg | jge | jl | jle => exact jumpProgram_all rfl _
  | _ => rfl

theorem dataPath_reservedClass {m : MicroInstr} (h : m.classAssigned = false) (s : State) :
    dataPath m s = .error .reservedMicroop := by
  simp only [MicroInstr.classAssigned, Bool.or_eq_false_iff, beq_eq_false_iff_ne] at h
  obtain ⟨⟨h0, h1⟩, h2⟩ := h
  rw [dataPath, if_neg h0, if_neg h1, if_neg h2, ite_self]

/-- The shift stage has no output for a reserved selector (40_datapath.md R172). -/
theorem commutate_reservedShift {m : MicroInstr} (h : m.shiftAssigned = false) (v : Word) :
    commutate v m.comm = .error .reservedMicroop := by
  have hsel : 4 < shiftSelector m.comm := Nat.lt_of_not_le (of_decide_eq_false h)
  unfold commutate
  split
  case h_6 => rfl
  all_goals omega

/-- A reserved shift in a transfer is met after the ALU, in any other class before the memory access (logs 21, 23). -/
theorem dataPath_reservedShift {m : MicroInstr} {s : State} (h : m.shiftAssigned = false)
    (halu : m.cls = 0#3 → ∃ r, aluCompute (gather s m.lhs) (gather s m.rhs) m.alu = .ok r) :
    dataPath m s = .error .reservedMicroop := by
  by_cases hcls : m.cls = 0
  · obtain ⟨r, hr⟩ := halu hcls
    rw [dataPath, if_pos hcls, transfer, hr]
    simp only [commutatorApply, commutate_reservedShift h]
  · rw [dataPath, if_neg hcls, if_pos h]

/-- Clearing mask bit 7 leaves every register's own bit (30_encoding.md R97). -/
theorem getLsbD_maskBit_and_7F (mask : BitVec 8) (r : Reg) :
    (mask &&& 0x7F#8).getLsbD r.maskBit = mask.getLsbD r.maskBit := by
  have hbit : (0x7F#8).getLsbD r.maskBit = true := by cases r <;> rfl
  rw [BitVec.getLsbD_and, hbit, Bool.and_true]

theorem gather_and_7F (s : State) (mask : BitVec 8) : gather s (mask &&& 0x7F#8) = gather s mask := by
  simp only [gather, contribution, getLsbD_maskBit_and_7F]

theorem writeRegs_and_7F (s : State) (mask : BitVec 8) (v : Word) :
    s.writeRegs (mask &&& 0x7F#8) v = s.writeRegs mask v := by
  simp only [State.writeRegs, selected, getLsbD_maskBit_and_7F]

theorem transfer_and_7F (m : MicroInstr) (s : State) :
    transfer { m with tgt := m.tgt &&& 0x7F#8, lhs := m.lhs &&& 0x7F#8, rhs := m.rhs &&& 0x7F#8 } s = transfer m s := by
  simp only [transfer, gather_and_7F, writeRegs_and_7F]

/-- Mask bit 7 is ignored: no class but the transfer reads the masks (R100). -/
theorem dataPath_and_7F (m : MicroInstr) (s : State) :
    dataPath { m with tgt := m.tgt &&& 0x7F#8, lhs := m.lhs &&& 0x7F#8, rhs := m.rhs &&& 0x7F#8 } s = dataPath m s := by
  rw [dataPath, transfer_and_7F]
  rfl

/-- Settles O7: the rows of the microprograms, the two faults, and the masks. -/
theorem reservedMicroops : Obligations.ReservedMicroops :=
  ⟨by decide, fun i s => List.all_eq_true.mp (microprogram_wellFormed i s), fun _ s h => dataPath_reservedClass h s,
    fun _ _ => dataPath_reservedShift, dataPath_and_7F⟩

/-! ## The operand field (30_encoding.md R85) -/

theorem operandBits_toNat (syms : List (List Char × Nat)) (o : Operand) :
    ((operandBits syms o).toNat : Int) = operandValue syms o % 2 ^ 24 := by
  rw [operandBits, BitVec.toNat_ofInt, Int.toNat_of_nonneg (Int.emod_nonneg _ (by decide))]
  rfl

/-- Settles O55: the field, and the word of a format A statement. -/
theorem operandTruncation : Obligations.OperandTruncation := by
  refine fun map syms o => ⟨operandBits_toNat syms o, fun m line ha => ?_⟩
  rw [itemWords, encodeWith, Mnemonic.mnemonic_toInstr, Mnemonic.operand_toInstr_a ha]

/-! ## The cells of a generated listing (30_encoding.md R125, R128, R129, R132) -/

theorem itemWords_length (map : OpcodeMap) (syms : List (List Char × Nat)) (i : Item) :
    (itemWords map syms i).length = itemCells i := by
  cases i with
  | label | instr => rfl
  | bytes _ bs _ => exact packBytes_length bs
  | res n _ => exact List.length_replicate

/-- Items fill the cells from their first address on without a gap. -/
theorem emitItems_addrs (map : OpcodeMap) (syms : List (List Char × Nat)) (a : Nat) (is : List Item) :
    (emitItems map syms a is).map (·.1) = List.range' a (is.map itemCells).sum := by
  induction is generalizing a with
  | nil => rfl
  | cons i rest ih =>
    have hfirst : ((itemWords map syms i).zipIdx.map (fun e => (a + e.2, e.1))).map (·.1) =
        List.range' a (itemCells i) := by
      calc ((itemWords map syms i).zipIdx.map (fun e => (a + e.2, e.1))).map (·.1)
          = ((itemWords map syms i).zipIdx.map Prod.snd).map (a + ·) := by simp only [List.map_map]; rfl
        _ = List.range' a (itemCells i) := by
          rw [List.zipIdx_map_snd, itemWords_length, List.map_add_range', Nat.add_zero]
    rw [emitItems, List.map_append, hfirst, ih, List.range'_append_1, List.map_cons, List.sum_cons]

/-- What the check for the end of memory secures (R129). -/
theorem cells_le_of_overflowItem {a : Nat} {is : List Item} (ha : a ≤ cellCount) (h : overflowItem a is = none) :
    a + (is.map itemCells).sum ≤ cellCount := by
  induction is generalizing a with
  | nil => exact ha
  | cons i rest ih =>
    rw [overflowItem] at h
    split at h
    case isTrue => cases h
    case isFalse hfits =>
      have hrest := ih (by omega) h
      rw [List.map_cons, List.sum_cons]
      omega

/-- What the check for repeated devices secures (R119). -/
theorem nodup_of_repeatedDevice {seen : List (Fin 16)} {ds : List DeviceInit} (h : repeatedDevice seen ds = none) :
    (∀ d ∈ ds, d.number ∉ seen) ∧ (ds.map (·.number)).Nodup := by
  induction ds generalizing seen with
  | nil => exact ⟨fun _ hd => absurd hd List.not_mem_nil, List.nodup_nil⟩
  | cons d rest ih =>
    rw [repeatedDevice] at h
    split at h
    case isTrue => cases h
    case isFalse hnew =>
      obtain ⟨hfresh, hnodup⟩ := ih h
      simp only [List.contains_iff_mem] at hnew
      simp only [List.mem_cons, not_or] at hfresh
      refine ⟨fun e he => ?_, ?_⟩
      · obtain rfl | he := List.mem_cons.mp he
        · exact hnew
        · exact (hfresh e he).2
      · rw [List.map_cons, List.nodup_cons]
        refine ⟨fun hmem => ?_, hnodup⟩
        obtain ⟨e, he, hnumber⟩ := List.mem_map.mp hmem
        exact (hfresh e he).1 hnumber

theorem deviceCells_addrs (syms : List (List Char × Nat)) (d : DeviceInit) :
    ((deviceCells syms d).map (·.1)).Sublist [blockStatus d.number, blockBuffer d.number] := by
  unfold deviceCells
  split
  · exact List.Sublist.refl _
  · exact List.nil_sublist _

/-- One device has at most one initialisation, which fills cells of its block (R119, R128). -/
theorem deviceBlock_addrs (syms : List (List Char × Nat)) {n : Fin 16} {ds : List DeviceInit}
    (hnodup : (ds.map (·.number)).Nodup) (hnumber : ∀ d ∈ ds, d.number = n) :
    ((ds.flatMap (deviceCells syms)).map (·.1)).Sublist [blockStatus n, blockBuffer n] := by
  match ds with
  | [] => exact List.nil_sublist _
  | [d] =>
    obtain rfl := hnumber d List.mem_cons_self
    rw [List.flatMap_singleton]
    exact deviceCells_addrs syms d
  | d :: e :: _ =>
    have hsame : d.number = e.number := by rw [hnumber d (by simp), hnumber e (by simp)]
    simp [hsame] at hnodup

/-- The image's addresses are among the block cells, then the cells of data and text in a row (R132). -/
theorem imageCells_addrs (map : OpcodeMap) {p : Program} (h : (p.devices.map (·.number)).Nodup) :
    ((imageCells map p).map (·.1)).Sublist (List.range' 0 (imageBase + ((p.data ++ p.text).map itemCells).sum)) := by
  have hdevice (n : Fin 16) : (((p.devices.filter (fun d => d.number = n)).flatMap
      (deviceCells (symbolTable p))).map (·.1)).Sublist [blockStatus n, blockBuffer n] :=
    deviceBlock_addrs _ (h.sublist (List.filter_sublist.map _)) fun d hd => of_decide_eq_true (List.mem_filter.mp hd).2
  have hdevices := List.Sublist.flatMap_right (List.finRange 16) fun n _ => hdevice n
  have hblocks : (List.finRange 16).flatMap (fun n => [blockStatus n, blockBuffer n]) = List.range' 0 imageBase := by
    decide
  have hrange (k : Nat) : List.range' 0 (imageBase + k) = List.range' 0 imageBase ++ List.range' imageBase k := by
    rw [← List.range'_append_1, Nat.zero_add]
  rw [imageCells, List.map_append, List.map_append, emitItems_addrs, emitItems_addrs, List.append_assoc,
    List.range'_append_1, hrange, List.map_append (l₁ := p.data), List.sum_append, List.map_flatMap, ← hblocks]
  exact hdevices.append_right _

/-- What a listing of the generator is: its checks passed, and its addresses are those of the image (R129, R132). -/
theorem generate_ok {map : OpcodeMap} {p : Program} {ls : List ListingLine} (h : generate map p = .ok ls) :
    repeatedDevice [] p.devices = none ∧ overflowItem imageBase (p.data ++ p.text) = none ∧
      ls.map (·.addr) = (imageCells map p).map (·.1) := by
  unfold generate at h
  split at h
  · cases h
  split at h
  · cases h
  rename_i hdevices
  split at h
  · cases h
  rename_i hroom
  cases h
  exact ⟨hdevices, hroom, List.map_map⟩

/-- Settles O57: the addresses are a sublist of a range that ends by 2^24. -/
theorem generatedCellsRise : Obligations.GeneratedCellsRise := by
  intro map p ls h
  obtain ⟨hdevices, hroom, haddrs⟩ := generate_ok h
  have hsub := imageCells_addrs map (nodup_of_repeatedDevice hdevices).2
  have hend := cells_le_of_overflowItem (by decide) hroom
  rw [← haddrs] at hsub
  refine ⟨List.pairwise_map.mp ((List.pairwise_lt_range' 1).sublist hsub), fun l hl => ?_⟩
  have hmem := hsub.subset (List.mem_map_of_mem hl)
  rw [List.mem_range'_1] at hmem
  omega

/-! ## A line of the listing reads back (30_encoding.md R131; 70_reset_and_hazards.md R458) -/

theorem hexDigit_hexChar : ∀ v < 16, hexDigit (hexChar v) = some v := by decide

theorem isBlank_hexChar : ∀ v < 16, isBlank (hexChar v) = false := by decide

/-- Hex digits are read in two goes as in one. -/
theorem takeHex_add (m n v : Nat) (cs : List Char) :
    takeHex (m + n) v cs = (takeHex m v cs).bind fun r => takeHex n r.1 r.2 := by
  induction m generalizing v cs with
  | zero => simp [takeHex]
  | succ m ih =>
    rw [Nat.succ_add]
    cases cs with
    | nil => rfl
    | cons c cs =>
      simp only [takeHex]
      cases hexDigit c with
      | none => rfl
      | some d => exact ih _ cs

/-- The digits written are the digits read: after `v`, the number's low `n` digits. -/
theorem takeHex_hexText (n v x : Nat) (rest : List Char) :
    takeHex n v (hexText n x ++ rest) = some (v * 16 ^ n + x % 16 ^ n, rest) := by
  induction n generalizing x rest with
  | zero => simp [takeHex, hexText, Nat.mod_one]
  | succ n ih =>
    have hvalue : (v * 16 ^ n + x / 16 % 16 ^ n) * 16 + x % 16 = v * 16 ^ (n + 1) + x % 16 ^ (n + 1) := by
      rw [Nat.pow_succ', Nat.mod_mul]
      ring
    rw [hexText, List.append_assoc, takeHex_add, ih]
    simp only [Option.bind_some, List.singleton_append, takeHex, hexDigit_hexChar _ (Nat.mod_lt x (by decide)), hvalue]

theorem not_isBlank_of_mem_hexText {n x : Nat} {c : Char} (h : c ∈ hexText n x) : isBlank c = false := by
  induction n generalizing x with
  | zero => cases h
  | succ n ih =>
    rw [hexText, List.mem_append, List.mem_singleton] at h
    obtain h | rfl := h
    · exact ih h
    · exact isBlank_hexChar _ (Nat.mod_lt x (by decide))

theorem skipBlanks_space {c : Char} (h : isBlank c = false) (cs : List Char) :
    skipBlanks (' ' :: c :: cs) = some (c :: cs) :=
  congrArg some (List.dropWhile_cons_of_neg (Bool.eq_false_iff.mp h))

/-- No blanks are skipped before a written number. -/
theorem dropWhile_hexText (n x : Nat) (rest : List Char) (hn : n ≠ 0) :
    (hexText n x ++ rest).dropWhile isBlank = hexText n x ++ rest := by
  cases htext : hexText n x with
  | nil =>
    obtain ⟨k, rfl⟩ := Nat.exists_eq_succ_of_ne_zero hn
    simp [hexText] at htext
  | cons c cs =>
    have hc : isBlank c = false := not_isBlank_of_mem_hexText (htext ▸ List.mem_cons_self)
    simp [hc]

/-- The one space before a written number is all that is skipped. -/
theorem skipBlanks_hexText (n x : Nat) (rest : List Char) (hn : n ≠ 0) :
    skipBlanks (' ' :: (hexText n x ++ rest)) = some (hexText n x ++ rest) :=
  congrArg some (dropWhile_hexText n x rest hn)

/-- The comment of a line, or its absence, ends the line. -/
theorem lineTail_comment (labels : List (List Char)) :
    lineTail (if labels.isEmpty then [] else "  <- ".toList ++ joinLabels labels) = true := by
  cases labels with
  | nil => rfl
  | cons n rest => rfl

/-- A number that fits its digits is read back whole. -/
theorem takeHex_hexText_of_lt {n x : Nat} (h : x < 16 ^ n) (rest : List Char) :
    takeHex n 0 (hexText n x ++ rest) = some (x, rest) := by
  rw [takeHex_hexText, Nat.mod_eq_of_lt h, Nat.zero_mul, Nat.zero_add]

/-- The mark of a line is one the loader knows, and tells whether the line is the entry (R458). -/
theorem mark_spec (entry : Bool) :
    isBlank (if entry then '>' else ':') = false ∧
    ((if entry then '>' else ':') = ':' ∨ (if entry then '>' else ':') = '>') ∧
    ((if entry then '>' else ':') == '>') = entry := by
  cases entry <;> decide

/-- Settles O58: the parser passes the address, the mark, the value and the comment in turn. -/
theorem listingLineReadsBack : Obligations.ListingLineReadsBack := by
  intro l h
  have haddr : l.addr < 16 ^ 6 := h
  have hvalue : l.value.toNat < 16 ^ 8 := l.value.isLt
  have htail := lineTail_comment l.labels
  obtain ⟨hblank, hmark, hentry⟩ := mark_spec l.entry
  unfold parseLine renderLine
  generalize (if l.labels.isEmpty then [] else "  <- ".toList ++ joinLabels l.labels) = tail at htail
  generalize (if l.entry then '>' else ':') = mark at hblank hmark hentry
  simp only [List.append_assoc, List.cons_append, List.nil_append]
  rw [dropWhile_hexText _ _ _ (by decide), takeHex_hexText_of_lt haddr]
  simp only [skipBlanks_space hblank, if_pos hmark]
  rw [skipBlanks_hexText _ _ _ (by decide)]
  simp only [takeHex_hexText_of_lt hvalue, if_pos htail, hentry, BitVec.ofNat_toNat, BitVec.setWidth_eq]

end Sys2Proof.Machine
end

section
/-! Proofs of the family 40_datapath, in this order: the arithmetic-logic unit, the commutator, the writes to SR, FETCH and the
cycle around EXECUTE, the instruction counter, the faults of EXECUTE, and the ticks that make up a step. -/

namespace Sys2Proof.Machine

/-! ## The arithmetic-logic unit (40_datapath.md R160 to R167) -/

theorem overflowOf_iff (l r res : Int) :
    overflowOf l r res = true ↔ (0 < l ∧ 0 < r ∧ res < 0) ∨ (l < 0 ∧ r < 0 ∧ 0 < res) := by
  simp only [overflowOf, Bool.or_eq_true, Bool.and_eq_true, decide_eq_true_eq, gt_iff_lt, and_assoc]

theorem overflowOf_eq_false_iff (l r res : Int) :
    overflowOf l r res = false ↔ ¬((0 < l ∧ 0 < r ∧ res < 0) ∨ (l < 0 ∧ r < 0 ∧ 0 < res)) := by
  rw [← overflowOf_iff, Bool.not_eq_true]

/-- A left operand and a result that are not negative set no overflow. -/
theorem overflowOf_of_nonneg {l res : Int} (hl : 0 ≤ l) (hres : 0 ≤ res) (r : Int) : overflowOf l r res = false := by
  rw [overflowOf_eq_false_iff]
  omega

/-- A result that fits a word sets no carry. -/
theorem carryOf_toNat (w : Word) : carryOf (w.toNat : Int) = false := by
  have := w.isLt
  rw [carryOf, decide_eq_false_iff_not]
  omega

theorem carryOf_natCast (n : Nat) : carryOf (n : Int) = decide (0xFFFFFFFF < n) := by
  rw [carryOf, decide_eq_decide]
  omega

/-- A code without transforms, whose operation gives a natural number: V is 0 and C says whether it fits a word (R164, R165). -/
theorem aluCompute_untransformed {a b : Word} {op : AluOp} {n : Nat} (h : aluResult op a.toNat b.toNat = .ok (n : Int)) :
    ∃ f, aluCompute a b (aluCode op .id .id) = .ok (BitVec.ofNat 32 n, f) ∧
      f.c = decide (0xFFFFFFFF < n) ∧ f.v = false := by
  refine ⟨aluFlags a.toNat b.toNat n, ?_, carryOf_natCast n, overflowOf_of_nonneg (by omega) (by omega) _⟩
  rw [aluCompute_aluCode]
  simp only [applyTransform, h, mask32, BitVec.ofInt_natCast]

/-- As above, where the result is a word already. -/
theorem aluCompute_untransformed_word {a b w : Word} {op : AluOp} (h : aluResult op a.toNat b.toNat = .ok (w.toNat : Int)) :
    ∃ f, aluCompute a b (aluCode op .id .id) = .ok (w, f) ∧ f.c = false ∧ f.v = false := by
  obtain ⟨f, hf, hc, hv⟩ := aluCompute_untransformed h
  have hfits : ¬ 0xFFFFFFFF < w.toNat := by
    have := w.isLt
    omega
  exact ⟨f, by simpa using hf, by simpa [hfits] using hc, hv⟩

theorem toNat_ne_zero {b : Word} (h : b ≠ 0) : b.toNat ≠ 0 := fun h0 => h (BitVec.eq_of_toNat_eq h0)

/-- Settles O8: without transforms each operation is that of the natural numbers. -/
theorem aluUntransformedLaws : Obligations.AluUntransformedLaws := by
  intro a b
  refine ⟨?_, ?_, ?_, fun hb => ?_⟩
  · obtain ⟨f, hf, hc, hv⟩ := aluCompute_untransformed (a := a) (b := b) (op := .add) (n := a.toNat + b.toNat) rfl
    exact ⟨f, by simpa [BitVec.ofNat_add] using hf, hc, hv⟩
  · exact aluCompute_untransformed_word (op := .and) (by rw [BitVec.toNat_and]; rfl)
  · obtain ⟨f, hf, hc, hv⟩ := aluCompute_untransformed (a := a) (b := b) (op := .mul) (n := a.toNat * b.toNat) rfl
    exact ⟨f, by simpa [BitVec.ofNat_mul] using hf, hc, hv⟩
  · have hb0 : (b.toNat : Int) ≠ 0 := by exact_mod_cast toNat_ne_zero hb
    have hquot : aluResult .div a.toNat b.toNat = .ok ((a / b).toNat : Int) := by
      rw [aluResult, if_neg hb0, Int.fdiv_eq_ediv_of_nonneg _ (by omega), BitVec.toNat_udiv, Int.natCast_ediv]
    obtain ⟨f, hf, hc, hv⟩ := aluCompute_untransformed_word hquot
    exact ⟨f, hf, BitVec.toNat_udiv, hc, hv⟩

/-- The product and the quotient of positive operands are not negative. -/
theorem aluResult_nonneg_of_pos {op : AluOp} {l r res : Int} (hop : op = .mul ∨ op = .div) (h : aluResult op l r = .ok res)
    (hl : 0 < l) (hr : 0 < r) : 0 ≤ res := by
  obtain rfl | rfl := hop
  · cases h
    exact (Int.mul_pos hl hr).le
  · rw [aluResult, if_neg hr.ne'] at h
    cases h
    exact Int.fdiv_nonneg hl.le hr.le

/-- Settles O9: the flag as it is defined, and the sign of each operation's result for operands of one sign. -/
theorem overflowFlag : Obligations.OverflowFlag := by
  intro op l r res h
  have hV : (aluFlags l r res).v = overflowOf l r res := rfl
  rw [hV, overflowOf_eq_false_iff, overflowOf_iff]
  refine ⟨Iff.rfl, ?_, fun hop => ?_, ?_⟩
  · rintro rfl
    cases h
    omega
  · constructor
    · rintro (⟨hl, hr, hres⟩ | hneg)
      · exact absurd (aluResult_nonneg_of_pos hop h hl hr) (not_le.mpr hres)
      · exact hneg
    · exact .inr
  · rintro rfl hsigns
    cases h
    have := intAnd_neg_iff l r
    omega

/-- The one fault of the operations is a zero divisor (R162). -/
theorem aluResult_error_iff (op : AluOp) (l r : Int) (k : FaultKind) :
    aluResult op l r = .error k ↔ k = .divisionByZero ∧ op = .div ∧ r = 0 := by
  cases op with
  | div =>
    by_cases hr : r = 0
    · simp [aluResult, hr, eq_comm]
    · simp [aluResult, hr]
  | _ => simp [aluResult]

/-- Settles O10: the transforms and the masking add no fault to the operation's. -/
theorem aluFaults : Obligations.AluFaults := by
  intro x y op l r k
  rw [← aluResult_error_iff op (applyTransform l x.toNat), aluCompute_aluCode]
  cases aluResult op (applyTransform l x.toNat) (applyTransform r y.toNat) <;> simp

/-! ## The commutator (40_datapath.md R170 to R172) -/

/-- With no shift the output is that of the lane stage (R170). -/
theorem commutate_of_noShift {comm : BitVec 10} (h : comm.extractLsb' 4 3 = 0#3) (v : Word) :
    commutate v comm = .ok (laneStage v comm) := by
  have hsel : shiftSelector comm = 0 := congrArg BitVec.toNat h
  rw [commutate, hsel]
  rfl

/-- The lane stage reads the four lane bits alone (R170). -/
theorem laneStage_congr {c c' : BitVec 10} (h : c.extractLsb' 0 4 = c'.extractLsb' 0 4) (v : Word) :
    laneStage v c = laneStage v c' := by
  have bit (k : Nat) (hk : k < 4) : c.getLsbD k = c'.getLsbD k := by
    simpa [hk] using congrArg (BitVec.getLsbD · k) h
  simp only [laneStage, bit 0 (by decide), bit 1 (by decide), bit 2 (by decide), bit 3 (by decide)]

/-- Settles O11: the lane stage at the five settings. -/
theorem laneSettings : Obligations.LaneSettings := by
  intro v comm hshift
  rw [commutate_of_noShift hshift]
  refine ⟨fun h => ?_, fun h => ?_, fun h => ?_, fun h => ?_, fun h => ?_⟩
  · rw [laneStage_PASS v comm h]
  · rw [laneStage_congr (c' := 0x00F#10) h]
    simp [laneStage, trunc24]
  · rw [laneStage_congr (c' := 0x004#10) h]
    simp [laneStage]
  · rw [laneStage_congr (c' := 0x001#10) h]
    simp [laneStage]
  · rw [laneStage_congr (c' := 0x000#10) h]
    simp [laneStage]

/-! The four shifts, bit by bit (R172). -/

theorem getLsbD_shl_one (v : Word) :
    (v <<< 1).getLsbD 0 = false ∧ ∀ k < 31, (v <<< 1).getLsbD (k + 1) = v.getLsbD k := by
  refine ⟨by simp, fun k hk => ?_⟩
  have hbit : k + 1 < 32 := by omega
  simp only [BitVec.getLsbD_shiftLeft, hbit, Nat.add_sub_cancel]
  simp

theorem getLsbD_shr_one (v : Word) :
    (v >>> 1).getLsbD 31 = false ∧ ∀ k < 31, (v >>> 1).getLsbD k = v.getLsbD (k + 1) := by
  refine ⟨by simp, fun k _ => ?_⟩
  simp [Nat.add_comm]

theorem getLsbD_rol_one (v : Word) :
    ((v <<< 1) ||| (v >>> 31)).getLsbD 0 = v.getLsbD 31 ∧
    ∀ k < 31, ((v <<< 1) ||| (v >>> 31)).getLsbD (k + 1) = v.getLsbD k := by
  obtain ⟨h0, hs⟩ := getLsbD_shl_one v
  refine ⟨?_, fun k hk => ?_⟩
  · rw [BitVec.getLsbD_or, h0, BitVec.getLsbD_ushiftRight, Bool.false_or]
  · rw [BitVec.getLsbD_or, hs k hk, BitVec.getLsbD_ushiftRight, BitVec.getLsbD_of_ge v (31 + (k + 1)) (by omega),
      Bool.or_false]

theorem getLsbD_ror_one (v : Word) :
    ((v >>> 1) ||| ((v &&& 1) <<< 31)).getLsbD 31 = v.getLsbD 0 ∧
    ∀ k < 31, ((v >>> 1) ||| ((v &&& 1) <<< 31)).getLsbD k = v.getLsbD (k + 1) := by
  obtain ⟨h31, hs⟩ := getLsbD_shr_one v
  refine ⟨?_, fun k hk => ?_⟩
  · rw [BitVec.getLsbD_or, h31]
    simp
  · rw [BitVec.getLsbD_or, hs k hk]
    simp [hk]

/-- Settles O12: by the selector. -/
theorem shiftStage : Obligations.ShiftStage := by
  intro v comm
  have hsel {n : BitVec 3} (h : comm.extractLsb' 4 3 = n) : shiftSelector comm = n.toNat := congrArg BitVec.toNat h
  refine ⟨fun h => ⟨v <<< 1, ?_, getLsbD_shl_one v⟩, fun h => ⟨v >>> 1, ?_, getLsbD_shr_one v⟩,
    fun h => ⟨(v <<< 1) ||| (v >>> 31), ?_, getLsbD_rol_one v⟩,
    fun h => ⟨(v >>> 1) ||| ((v &&& 1) <<< 31), ?_, getLsbD_ror_one v⟩, fun h => ?_⟩
  · rw [commutate, hsel h]; rfl
  · rw [commutate, hsel h]; rfl
  · rw [commutate, hsel h]; rfl
  · rw [commutate, hsel h]; rfl
  · have hreserved : (MicroInstr.mk 0 0 0 0 0 comm).shiftAssigned = false := decide_eq_false (Nat.not_le.mpr h)
    exact commutate_reservedShift hreserved v

/-! ## The writes to SR (40_datapath.md R175, R180) -/

/-- A transfer that completes leaves the committed SR, or its output where SR is a target: the write-back comes last (R180). -/
theorem transfer_sr {m : MicroInstr} {s t : State} {res : Word} {f : AluFlags} (hcls : m.cls = 0)
    (halu : aluCompute (gather s m.lhs) (gather s m.rhs) m.alu = .ok (res, f)) (h : dataPath m s = .ok t) :
    ∃ out, commutate res m.comm = .ok out ∧
      t.sr = if m.tgt.getLsbD 5 = true then out else commitFlags m.comm f s.sr := by
  rw [dataPath, if_pos hcls] at h
  obtain ⟨res', f', out, sr', halu', hcomm, rfl⟩ := transfer_ok h
  rw [halu] at halu'
  cases halu'
  obtain ⟨hout, rfl⟩ := commutatorApply_ok hcomm
  exact ⟨out, hout, rfl⟩

/-- Settles O13: SR is no target, so the commit stands. -/
theorem flagCommit : Obligations.FlagCommit := by
  refine ⟨fun m s t res f hcls htgt halu h => ?_, getLsbD_commitFlags⟩
  obtain ⟨out, -, hsr⟩ := transfer_sr hcls halu h
  rw [hsr, if_neg (Bool.eq_false_iff.mp htgt)]

theorem cls_of_sr_changed {m : MicroInstr} {s t : State} (h : dataPath m s = .ok t) (hsr : t.sr ≠ s.sr) : m.cls = 0 := by
  obtain ⟨hcls, -⟩ | ⟨-, -, rfl⟩ | ⟨-, -, rfl⟩ := dataPath_cases h
  · exact hcls
  · exact absurd rfl hsr
  · exact absurd rfl hsr

theorem exists_getLsbD_ne {w w' : Word} (h : w ≠ w') : ∃ k, w.getLsbD k ≠ w'.getLsbD k := by
  by_contra hsame
  push Not at hsame
  exact h (BitVec.eq_of_getLsbD_eq fun k _ => hsame k)

/-- What every row of 40_datapath.md R190 keeps to: none writes CR, which holds the operand, and none that writes SR back commits a
flag as well (R180). -/
def keepsCommandAndCommit (m : MicroInstr) : Bool :=
  !m.tgt.getLsbD Reg.cr.maskBit &&
  decide (m.tgt.getLsbD Reg.sr.maskBit = true →
    m.comm.getLsbD 7 = false ∧ m.comm.getLsbD 8 = false ∧ m.comm.getLsbD 9 = false)

theorem keepsCommandAndCommit_iff (m : MicroInstr) :
    keepsCommandAndCommit m = true ↔ m.tgt.getLsbD Reg.cr.maskBit = false ∧
      (m.tgt.getLsbD Reg.sr.maskBit = true →
        m.comm.getLsbD 7 = false ∧ m.comm.getLsbD 8 = false ∧ m.comm.getLsbD 9 = false) := by
  rw [keepsCommandAndCommit, Bool.and_eq_true, Bool.not_eq_true', decide_eq_true_iff]

theorem microprogram_keepsCommandAndCommit (i : Instr) (s : State) :
    ∀ m ∈ microprogram i s, keepsCommandAndCommit m = true := by
  rw [← List.all_eq_true]
  cases i with
  | shl | shr | rol | ror =>
    simp only [microprogram]
    cases s.shiftFlags <;> rfl
  | jz | je | jnz | jg | jge | jl | jle => exact jumpProgram_all rfl _
  | _ => rfl

/-- Settles O14: the write-back comes last; a bit that changed has its writer; the rows keep the two apart. -/
theorem statusWriteBack : Obligations.StatusWriteBack := by
  refine ⟨fun m s t res f out hcls htgt halu hout h => ?_, fun m s t h hne => ⟨cls_of_sr_changed h hne, ?_⟩,
    fun i s m hm => ?_⟩
  · obtain ⟨out', hout', hsr⟩ := transfer_sr hcls halu h
    cases hout.symm.trans hout'
    rw [hsr, if_pos htgt]
  · obtain ⟨k, hk⟩ := exists_getLsbD_ne hne
    obtain htgt | ⟨-, hC⟩ | ⟨-, hV⟩ | ⟨-, hNZ⟩ := dataPath_sr_changed h hk
    · exact .inl htgt
    · exact .inr (.inr (.inr hC))
    · exact .inr (.inr (.inl hV))
    · exact .inr (.inl hNZ)
  · obtain hfetch | hrow := List.mem_append.mp hm
    · have fetchRow : ∀ m ∈ fetchProgram, m.tgt.getLsbD 5 = true →
          m.comm.getLsbD 7 = false ∧ m.comm.getLsbD 8 = false ∧ m.comm.getLsbD 9 = false := by decide
      exact fetchRow m hfetch
    · exact ((keepsCommandAndCommit_iff m).mp (microprogram_keepsCommandAndCommit i s m hrow)).2

/-! ## FETCH and the cycle around EXECUTE (40_datapath.md R183 to R188) -/

/-- After FETCH and DECODE the operand field of CR is the instruction's operand (30_encoding.md R84, R87; log 8). -/
theorem fetchedState_loadOperand {s : State} {i : Instr} (hdec : decodeWith s.opcodeMap (fetchedWord s) = .ok i)
    (ha : i.mnemonic.format = .a) : (fetchedState s).loadOperand i.operand = fetchedState s := by
  obtain ⟨m, -, rfl⟩ := (decodeWith_ok_iff _ _ _).mp hdec
  rw [Mnemonic.mnemonic_toInstr] at ha
  exact loadOperand_self _ _ (Mnemonic.operand_toInstr_a ha _).symm

/-- Settles O39: the packed words, the net effect, and the operand that CR already holds. -/
theorem fetchEffect : Obligations.FetchEffect :=
  ⟨by decide, fetch_eq, fun _ _ => fetchedState_loadOperand⟩

/-- Settles O38: the cycle around `exec`, and what follows EXECUTE by the fault status. -/
theorem stepRunsDecoded : Obligations.StepRunsDecoded := by
  intro s i hrun hdec _
  rw [step_of_decoded hrun hdec]
  cases exec i (fetchedState s) with
  | next t =>
    cases ht : t.faultStatus with
    | none =>
      rw [afterExecute_ok ht]
      simp only [ht, if_true]
      rfl
    | some k =>
      rw [afterExecute_faulted ht]
      simp [ht]
  | fault f => rfl
  | refused r => rfl

/-! ## The instruction counter (40_datapath.md R184; 60_exceptions.md R401) -/

/-- A microinstruction reaches no counter, and neither phase nor fault status nor devices nor parameters; the tick is counted
around it (40_datapath.md R177, R178, R181). -/
theorem dataPath_controlKept {m : MicroInstr} {s t : State} (h : dataPath m s = .ok t) : ControlKept s t 0 := by
  obtain ⟨-, res, f, out, sr', -, -, rfl⟩ | ⟨-, -, rfl⟩ | ⟨-, -, rfl⟩ := dataPath_cases h
  · exact ⟨rfl, rfl, rfl, rfl, rfl, rfl, rfl, rfl⟩
  · exact ⟨rfl, rfl, rfl, rfl, rfl, rfl, rfl, rfl⟩
  · exact ⟨rfl, rfl, rfl, rfl, rfl, rfl, rfl, rfl⟩

theorem runMicro_instructions (ms : List MicroInstr) (s : State) : (runMicro ms s).instructions = s.instructions := by
  induction ms generalizing s with
  | nil => rfl
  | cons m rest ih =>
    cases hm : dataPath m s with
    | error k => rw [runMicro_error hm]; rfl
    | ok s' =>
      rw [runMicro_ok hm, ih]
      exact (dataPath_controlKept hm).instructions

/-- The operand form writes CR alone (log 8). -/
theorem withOperandOf_controlKept (s : State) (i : Instr) : ControlKept s (s.withOperandOf i) 0 := by
  unfold State.withOperandOf
  split <;> exact ⟨rfl, rfl, rfl, rfl, rfl, rfl, rfl, rfl⟩

/-- Settles O44: the completion counts, and it follows exactly the microprograms that took no fault. -/
theorem instructionCounter : Obligations.InstructionCounter := by
  intro s t _ h
  obtain ⟨-, ⟨r, -, rfl⟩ | ⟨i, u, -, hu, hend⟩⟩ := step_cases h
  · rw [if_neg (by simp), fetch_eq]
    rfl
  · have hkept : u.instructions = s.instructions := by
      rw [hu, runMicro_instructions, (withOperandOf_controlKept _ i).instructions, fetch_eq]
      rfl
    obtain ⟨hnone, rfl⟩ | ⟨hfault, rfl⟩ := hend
    · rw [complete_faultStatus, if_pos hnone, complete_instructions, hkept]
    · rw [if_neg hfault, hkept]

/-! ## The faults of EXECUTE (40_datapath.md R192) -/

/-- Every operation but DIV has a result (R162). -/
theorem aluCompute_of_not_div {code : BitVec 6} (h : AluOp.ofCode (code.extractLsb' 0 2) ≠ .div) (x y : Word) :
    ∃ r, aluCompute x y code = .ok r := by
  simp only [aluCompute]
  split
  · exact ⟨_, rfl⟩
  · rename_i herr
    exact absurd ((aluResult_error_iff _ _ _ _).mp herr).2.1 h

/-- Every assigned shift selector has an output (R172). -/
theorem commutate_of_shiftAssigned {m : MicroInstr} (h : m.shiftAssigned = true) (v : Word) :
    ∃ out, commutate v m.comm = .ok out := by
  have hsel : shiftSelector m.comm ≤ 4 := of_decide_eq_true h
  unfold commutate
  interval_cases shiftSelector m.comm <;> exact ⟨_, rfl⟩

theorem dataPath_transfer_ok {m : MicroInstr} (hcls : m.cls = 0) (hshift : m.shiftAssigned = true)
    (hop : AluOp.ofCode (m.alu.extractLsb' 0 2) ≠ .div) (s : State) : ∃ t, dataPath m s = .ok t := by
  obtain ⟨⟨res, f⟩, halu⟩ := aluCompute_of_not_div hop (gather s m.lhs) (gather s m.rhs)
  obtain ⟨out, hout⟩ := commutate_of_shiftAssigned hshift res
  rw [dataPath, if_pos hcls]
  simp only [transfer, halu, commutatorApply, hout]
  exact ⟨_, rfl⟩

/-- A microinstruction that cannot fault where AR names a cell, if `inRange` says that it does: a transfer without DIV, or a READ
or WRITE in range. -/
def cannotFault (inRange : Bool) (m : MicroInstr) : Bool :=
  m.shiftAssigned && if m.cls = 0 then decide (AluOp.ofCode (m.alu.extractLsb' 0 2) ≠ .div)
    else inRange && decide (m.cls = 1 ∨ m.cls = 2)

/-- AR names a cell after a transfer that writes it through CUTB, and stays so unless it is written otherwise (R191). -/
def cutsAr (inRange : Bool) (m : MicroInstr) : Bool :=
  if m.cls = 0 ∧ m.tgt.getLsbD Reg.ar.maskBit = true then decide (m.comm = commCUTB) else inRange

/-- A program that cannot fault: no DIV, and every READ and WRITE after a transfer that cuts AR to a cell index (R191, R192). -/
def programCannotFault : Bool → List MicroInstr → Bool
  | _, [] => true
  | inRange, m :: rest => cannotFault inRange m && programCannotFault (cutsAr inRange m) rest

theorem dataPath_of_cannotFault {inRange : Bool} {m : MicroInstr} {s : State} (h : cannotFault inRange m = true)
    (hs : inRange = true → s.ar.toNat < cellCount) : ∃ t, dataPath m s = .ok t := by
  obtain ⟨hshift, hcase⟩ := Bool.and_eq_true_iff.mp h
  by_cases hcls : m.cls = 0
  · rw [if_pos hcls] at hcase
    exact dataPath_transfer_ok hcls hshift (of_decide_eq_true hcase) s
  · rw [if_neg hcls, Bool.and_eq_true, decide_eq_true_iff] at hcase
    obtain ⟨hrange, hmem⟩ := hcase
    rw [dataPath, if_neg hcls, if_neg (by simp [hshift])]
    obtain h1 | h2 := hmem
    · rw [if_pos h1, readCell, memRead_of_lt (hs hrange)]
      exact ⟨_, rfl⟩
    · rw [if_neg (by simp [h2]), if_pos h2, writeCell, memWrite_of_lt (hs hrange)]
      exact ⟨_, rfl⟩

theorem dataPath_ar_lt {inRange : Bool} {m : MicroInstr} {s t : State} (h : dataPath m s = .ok t)
    (hs : inRange = true → s.ar.toNat < cellCount) (hcut : cutsAr inRange m = true) : t.ar.toNat < cellCount := by
  unfold cutsAr at hcut
  obtain ⟨hcls, res, f, out, sr', -, hcomm, rfl⟩ | ⟨hcls, har, rfl⟩ | ⟨hcls, har, rfl⟩ := dataPath_cases h
  · rw [writeRegs_ar, selected]
    by_cases htgt : m.tgt.getLsbD Reg.ar.maskBit = true
    · rw [if_pos ⟨hcls, htgt⟩] at hcut
      obtain ⟨hout, -⟩ := commutatorApply_ok hcomm
      rw [of_decide_eq_true hcut, commutate_CUTB] at hout
      cases hout
      rw [if_pos htgt]
      exact trunc24_lt res
    · rw [if_neg (fun hc => htgt hc.2)] at hcut
      rw [if_neg htgt]
      exact hs hcut
  · exact har
  · exact har

/-- Such a program leaves the fault status as it was. -/
theorem runMicro_faultStatus {ms : List MicroInstr} {inRange : Bool} {s : State} (h : programCannotFault inRange ms = true)
    (hs : inRange = true → s.ar.toNat < cellCount) : (runMicro ms s).faultStatus = s.faultStatus := by
  induction ms generalizing inRange s with
  | nil => rfl
  | cons m rest ih =>
    obtain ⟨hm, hrest⟩ := Bool.and_eq_true_iff.mp h
    obtain ⟨t, ht⟩ := dataPath_of_cannotFault hm hs
    have hrange : cutsAr inRange m = true → t.ar.toNat < cellCount := dataPath_ar_lt ht hs
    rw [runMicro_ok ht]
    refine (ih hrest ?_).trans (dataPath_controlKept ht).faultStatus
    exact hrange

theorem microprogram_cannotFault {i : Instr} (hi : i ≠ .div) (s : State) :
    programCannotFault false (microprogram i s) = true := by
  cases i with
  | div => exact absurd rfl hi
  | shl | shr | rol | ror =>
    simp only [microprogram]
    cases s.shiftFlags <;> rfl
  | jz | je | jnz | jg | jge | jl | jle =>
    simp only [microprogram, jumpProgram]
    split <;> rfl
  | _ => rfl

/-- The DIV transfer reads its divisor, TOS, from BR (40_datapath.md R190). -/
theorem runMicro_div_faultStatus (s : State) :
    (runMicro divProgram s).faultStatus = if s.tos = 0 then some .divisionByZero else s.faultStatus := by
  rw [divProgram, binaryProgram, List.append_assoc, runMicro_readPair, List.singleton_append]
  by_cases h : s.tos = 0
  · rw [if_pos h, runMicro_error (dataPath_combine_div_zero _ h)]
    rfl
  · rw [if_neg h, runMicro_ok (dataPath_combine_div _ h), runMicro_writePop _ (trunc24_lt _)]

theorem fetch_faultStatus (s : State) : s.fetch.faultStatus = s.faultStatus := by rw [fetch_eq]

/-- Every instruction answers a next state, and only `div` with the divisor 0 faults on the way (R192). -/
theorem exec_faultStatus (i : Instr) (s : State) : ∃ t, exec i s = .next t ∧
    t.faultStatus = if i = .div ∧ s.tos = 0 then some .divisionByZero else s.faultStatus := by
  refine ⟨_, exec_eq_runMicro i s, ?_⟩
  by_cases hi : i = .div
  · subst hi
    exact (runMicro_div_faultStatus s).trans (by simp)
  · rw [if_neg (fun h => hi h.1), runMicro_faultStatus (microprogram_cannotFault hi s) (by simp)]
    exact (withOperandOf_controlKept s i).faultStatus

/-- A step that sets the fault status did it in DECODE or in the DIV transfer. -/
theorem step_fault_cases {s t : State} (hrun : Running s) (h : step s = .next t) {k : FaultKind}
    (hk : t.faultStatus = some k) :
    (k = .unknownOpcode ∧ ∀ i, decodeWith s.opcodeMap (fetchedWord s) ≠ .ok i) ∨
    (k = .divisionByZero ∧ decodeWith s.opcodeMap (fetchedWord s) = .ok .div ∧ s.tos = 0) := by
  cases hdec : decodeWith s.opcodeMap (fetchedWord s) with
  | error r =>
    rw [step_of_undecoded hrun hdec] at h
    cases h
    cases hk
    exact .inl ⟨rfl, fun _ hi => nomatch hi⟩
  | ok i =>
    obtain ⟨u, hexec, hfault⟩ := exec_faultStatus i (fetchedState s)
    rw [step_of_decoded hrun hdec, hexec] at h
    have ht : t.faultStatus = u.faultStatus := by
      obtain ⟨-, rfl⟩ | ⟨-, rfl⟩ := afterExecute_next_cases h <;> rfl
    have hstart : (fetchedState s).faultStatus = none := hrun.fault
    rw [ht, hfault, hstart] at hk
    split at hk
    · rename_i hdiv
      cases hk
      exact .inr ⟨rfl, congrArg _ hdiv.1, hdiv.2⟩
    · cases hk

/-- Settles O42: the rows of the microprograms, the DIV transfer, and the two places of a fault. -/
theorem onlyDivFaults : Obligations.OnlyDivFaults :=
  ⟨fetch_faultStatus, exec_faultStatus, fun _ _ hrun h _ => step_fault_cases hrun h⟩

/-! ## Ticks (40_datapath.md R181 to R183) -/

/-- Some number of ticks and phase changes leads from `s` to `t`. -/
def TicksTo (s t : State) : Prop := ∃ k, runTicks k s = .next t

theorem TicksTo.refl (s : State) : TicksTo s s := ⟨0, rfl⟩

theorem TicksTo.head {s s' t : State} (h : tick s = .next s') (h' : TicksTo s' t) : TicksTo s t := by
  obtain ⟨k, hk⟩ := h'
  exact ⟨k + 1, by rw [runTicks, h, ← hk]⟩

theorem TicksTo.single {s t : State} (h : tick s = .next t) : TicksTo s t := .head h (.refl t)

theorem TicksTo.trans {s t u : State} (h : TicksTo s t) (h' : TicksTo t u) : TicksTo s u := by
  obtain ⟨k, hk⟩ := h
  induction k generalizing s with
  | zero =>
    cases hk
    exact h'
  | succ k ih =>
    rw [runTicks] at hk
    cases htick : tick s with
    | next s' =>
      rw [htick] at hk
      exact .head htick (ih hk)
    | fault f =>
      rw [htick] at hk
      cases hk
    | refused r =>
      rw [htick] at hk
      cases hk

theorem microTick_ok {m : MicroInstr} {s t : State} (h : dataPath m s = .ok t) :
    microTick m s = { t with ticks := t.ticks + 1, microPos := t.microPos + 1 } := by
  simp only [microTick, h]

theorem microTick_error {m : MicroInstr} {s : State} {k : FaultKind} (h : dataPath m s = .error k) :
    microTick m s = State.raiseFault { s with ticks := s.ticks + 1 } k := by
  simp only [microTick, h]

/-- While `Ready` holds the control unit is inside `prog`: a tick runs the microinstruction at the micro-position, and unless
that faults `Ready` holds after it. -/
structure InProgram (prog : List MicroInstr) (Ready : State → Prop) : Prop where
  runs : ∀ {s m}, Ready s → prog[s.microPos]? = some m → tick s = .next (microTick m s)
  keeps : ∀ {s t m}, Ready s → m ∈ prog → dataPath m s = .ok t →
    Ready { t with ticks := t.ticks + 1, microPos := t.microPos + 1 }

/-- Ticking through the rest of a program does what running it does, and ends behind it unless a fault was taken. -/
theorem InProgram.runMicro_rest {prog : List MicroInstr} {Ready : State → Prop} (hprog : InProgram prog Ready)
    {ms : List MicroInstr} {s : State} (hs : Ready s) (hms : prog.drop s.microPos = ms) :
    TicksTo s (runMicro ms s) ∧ ((runMicro ms s).faultStatus = none →
      Ready (runMicro ms s) ∧ prog[(runMicro ms s).microPos]? = none) := by
  induction ms generalizing s with
  | nil => exact ⟨.refl s, fun _ => ⟨hs, List.getElem?_eq_none (List.drop_eq_nil_iff.mp hms)⟩⟩
  | cons m rest ih =>
    have hm : prog[s.microPos]? = some m := by
      rw [← Nat.add_zero s.microPos, ← List.getElem?_drop, hms]
      rfl
    have hrest : prog.drop (s.microPos + 1) = rest := by rw [List.drop_add_one_eq_tail_drop, hms, List.tail_cons]
    have htick := hprog.runs hs hm
    cases hd : dataPath m s with
    | error k =>
      rw [microTick_error hd] at htick
      rw [runMicro_error hd]
      exact ⟨.single htick, fun h => nomatch h⟩
    | ok t =>
      rw [microTick_ok hd] at htick
      rw [runMicro_ok hd]
      have hpos : t.microPos = s.microPos := (dataPath_controlKept hd).microPos
      obtain ⟨hto, hend⟩ := ih (hprog.keeps hs (List.mem_of_getElem? hm) hd) (by rw [← hrest, ← hpos])
      exact ⟨.head htick hto, hend⟩

/-! ### FETCH -/

/-- Inside FETCH; RUN counts at its first tick only (R183). -/
structure Fetching (s : State) : Prop where
  fault : s.faultStatus = none
  phase : s.phase = .fetch
  run : s.microPos = 0 → s.flagRUN = true

theorem Fetching.not_halted {s : State} (h : Fetching s) : ¬(s.microPos = 0 ∧ s.flagRUN = false) :=
  fun ⟨hpos, hstop⟩ => Bool.eq_false_iff.mp hstop (h.run hpos)

theorem tick_fetch_next {s : State} {m : MicroInstr} (h : Fetching s) (hm : fetchProgram[s.microPos]? = some m) :
    tick s = .next (microTick m s) := by
  simp only [tick, h.fault, h.phase, if_neg h.not_halted, hm]

theorem tick_fetch_end {s : State} (h : Fetching s) (hend : fetchProgram[s.microPos]? = none) :
    tick s = .next { s with phase := .decode, microPos := 0 } := by
  simp only [tick, h.fault, h.phase, if_neg h.not_halted, hend]

theorem inProgram_fetch : InProgram fetchProgram Fetching where
  runs := tick_fetch_next
  keeps h _ hd :=
    have hkept := dataPath_controlKept hd
    ⟨hkept.faultStatus.trans h.fault, hkept.phase.trans h.phase, fun h0 => nomatch h0⟩

theorem ticksTo_fetch {s : State} (hrun : Running s) (hphase : s.phase = .fetch) (hpos : s.microPos = 0) :
    TicksTo s s.fetch := by
  have hstart : { s with phase := .fetch, microPos := 0 } = s := by rw [← hphase, ← hpos]
  have hnoFault : (runMicro fetchProgram s).faultStatus = none :=
    (runMicro_faultStatus (inRange := false) rfl (by simp)).trans hrun.fault
  obtain ⟨hto, hend⟩ := inProgram_fetch.runMicro_rest (ms := fetchProgram) (s := s)
    ⟨hrun.fault, hphase, fun _ => hrun.run⟩ (by rw [hpos, List.drop_zero])
  obtain ⟨hlast, hpast⟩ := hend hnoFault
  refine hto.trans (.single ?_)
  rw [tick_fetch_end hlast hpast, State.fetch, hstart]

/-! ### EXECUTE -/

/-- Inside EXECUTE of `i`, whose microprogram here is `prog`. -/
structure Executing (i : Instr) (prog : List MicroInstr) (s : State) : Prop where
  fault : s.faultStatus = none
  phase : s.phase = .execute
  decodes : decodeWith s.opcodeMap s.cr = .ok i
  program : microprogram i s = prog

theorem tick_execute_next {i : Instr} {prog : List MicroInstr} {s : State} {m : MicroInstr} (h : Executing i prog s)
    (hm : prog[s.microPos]? = some m) : tick s = .next (microTick m s) := by
  simp only [tick, h.fault, h.phase, h.decodes, h.program, hm]

theorem tick_execute_end {i : Instr} {prog : List MicroInstr} {s : State} (h : Executing i prog s)
    (hend : prog[s.microPos]? = none) :
    tick s = .next { s with instructions := s.instructions + 1, phase := .devicePoll, microPos := 0 } := by
  simp only [tick, h.fault, h.phase, h.decodes, h.program, hend]

theorem tick_devicePoll {s : State} (hfault : s.faultStatus = none) (hphase : s.phase = .devicePoll) :
    tick s = .next { s.devicePoll with phase := .fetch, microPos := 0 } := by
  simp only [tick, hfault, hphase]

theorem dataPath_cr {m : MicroInstr} {s t : State} (hm : m.tgt.getLsbD Reg.cr.maskBit = false)
    (h : dataPath m s = .ok t) : t.cr = s.cr := by
  obtain ⟨-, res, f, out, sr', -, -, rfl⟩ | ⟨-, -, rfl⟩ | ⟨-, -, rfl⟩ := dataPath_cases h
  · rw [writeRegs_cr, selected, if_neg (Bool.eq_false_iff.mp hm)]
  · rfl
  · rfl

theorem eq_uPcCr_of_mem_jumpProgram {m : MicroInstr} {taken : Bool} (h : m ∈ jumpProgram taken) : m = uPcCr := by
  cases taken with
  | false => cases h
  | true => exact List.mem_singleton.mp h

/-- An instruction does not change what chose its program: a jump leaves SR, and nothing writes SHIFT_FLAGS. -/
theorem microprogram_of_dataPath {i : Instr} {m : MicroInstr} {s t : State} (hm : m ∈ microprogram i s)
    (h : dataPath m s = .ok t) : microprogram i t = microprogram i s := by
  cases i with
  | shl | shr | rol | ror => simp only [microprogram, (dataPath_controlKept h).shiftFlags]
  | jz | je | jnz | jg | jge | jl | jle =>
    rw [eq_uPcCr_of_mem_jumpProgram hm, dataPath_uPcCr] at h
    cases h
    rfl
  | _ => rfl

theorem microprogram_counted (i : Instr) (s : State) (n p : Nat) :
    microprogram i { s with ticks := n, microPos := p } = microprogram i s := by cases i <;> rfl

theorem inProgram_execute (i : Instr) (prog : List MicroInstr) : InProgram prog (Executing i prog) where
  runs := tick_execute_next
  keeps {s t m} h hm hd := by
    rw [← h.program] at hm
    obtain ⟨hcrTgt, -⟩ := (keepsCommandAndCommit_iff m).mp (microprogram_keepsCommandAndCommit i s m hm)
    have hkept := dataPath_controlKept hd
    refine ⟨hkept.faultStatus.trans h.fault, hkept.phase.trans h.phase, ?_, ?_⟩
    · have hdec := h.decodes
      rwa [← hkept.opcodeMap, ← dataPath_cr hcrTgt hd] at hdec
    · rw [microprogram_counted, microprogram_of_dataPath hm hd, h.program]

/-- In a cycle CR holds the operand already (log 8). -/
theorem fetchedState_withOperandOf {s : State} {i : Instr} (hdec : decodeWith s.opcodeMap (fetchedWord s) = .ok i) :
    (fetchedState s).withOperandOf i = fetchedState s := by
  unfold State.withOperandOf
  split
  · exact fetchedState_loadOperand hdec ‹_›
  · rfl

/-- EXECUTE, tick by tick, from its start. -/
theorem ticksTo_execute {s u : State} {i : Instr} (hrun : Running s)
    (hdec : decodeWith s.opcodeMap (fetchedWord s) = .ok i)
    (hu : u = runMicro (microprogram i (fetchedState s)) (fetchedState s)) :
    TicksTo (fetchedState s) u ∧ (u.faultStatus = none → TicksTo u u.complete) := by
  obtain ⟨hto, hend⟩ := (inProgram_execute i (microprogram i (fetchedState s))).runMicro_rest (s := fetchedState s)
    ⟨hrun.fault, rfl, hdec, rfl⟩ rfl
  rw [show (fetchedState s).microPos = 0 from rfl, List.drop_zero, ← hu] at hto hend
  refine ⟨hto, fun hnone => ?_⟩
  obtain ⟨hlast, hpast⟩ := hend hnone
  exact .head (tick_execute_end hlast hpast) (.single (tick_devicePoll hnone rfl))

/-- Settles O47: FETCH, DECODE, the microprogram, the count and the polls, each as its ticks and phase changes. -/
theorem ticksReachStep : Obligations.TicksReachStep := by
  intro s t hphase hpos h
  obtain ⟨hnotEnded, hcycle⟩ := step_cases h
  have hrun := (runEnded_eq_none_iff s).mp hnotEnded
  have hfetch := ticksTo_fetch hrun hphase hpos
  have hnone : s.fetch.faultStatus = none := (fetch_faultStatus s).trans hrun.fault
  have hdecode : s.fetch.phase = .decode := rfl
  refine hfetch.trans ?_
  obtain ⟨r, hr, rfl⟩ | ⟨i, u, hi, hu, hend⟩ := hcycle
  · exact .single (by simp only [tick, hnone, hdecode, hr])
  · have hentered : tick s.fetch = .next (fetchedState s) := by
      simp only [tick, hnone, hdecode, hi, fetch_enterExecute]
    rw [fetch_opcodeMap, fetch_cr] at hi
    rw [fetch_enterExecute, fetchedState_withOperandOf hi] at hu
    obtain ⟨hto, hcomplete⟩ := ticksTo_execute hrun hi hu
    refine .head hentered (hto.trans ?_)
    obtain ⟨hok, rfl⟩ | ⟨-, rfl⟩ := hend
    · exact hcomplete hok
    · exact .refl _

end Sys2Proof.Machine
end

section
/-! Proofs of the family 41_stack_arithmetic, in this order: the flags a transfer commits, what the computing transfers of a
microprogram do, what the binary and the unary microprograms do around them, and the instructions. -/

namespace Sys2Proof.Machine

/-! ## The committed flags (40_datapath.md R164 to R166, R175) -/

/-- The four flags of a result, each as the statement of an instruction names it. -/
theorem flagsNZVC_commit {l r res : Int} {c v : Bool} {w : Word} {p : Prop} [Decidable p] (hc : carryOf res = c)
    (hv : overflowOf l r res = v) (hw : mask32 res = w) (hz : w = 0 ↔ p) (sr : Word) :
    FlagsNZVC sr (commitNZVC (aluFlags l r res) sr) c v (decide p) (w.getLsbD 31) := by
  subst hc hv hw
  rw [← decide_eq_decide.mpr hz]
  exact commitNZVC_flags _ sr

theorem flagsNZ_commit {l r res : Int} {w : Word} {p : Prop} [Decidable p] (hw : mask32 res = w) (hz : w = 0 ↔ p) (sr : Word) :
    FlagsNZ sr (commitNZ (aluFlags l r res) sr) (decide p) (w.getLsbD 31) := by
  subst hw
  rw [← decide_eq_decide.mpr hz]
  exact commitNZ_flags _ sr

/-- An operation of natural numbers never sets V (R165). -/
theorem flagsNZVC_natCast {l n : Nat} {r : Int} {w : Word} {p : Prop} [Decidable p] (hw : mask32 n = w) (hz : w = 0 ↔ p)
    (sr : Word) :
    FlagsNZVC sr (commitNZVC (aluFlags l r n) sr) (decide (0xFFFFFFFF < n)) false (decide p) (w.getLsbD 31) :=
  flagsNZVC_commit (carryOf_natCast n) (overflowOf_of_nonneg (by omega) (by omega) r) hw hz sr

/-- A difference of words is below 2^32 and subtracts what is not negative: neither C nor V (R164, R165). -/
theorem flagsNZVC_sub (a b sr : Word) :
    FlagsNZVC sr (commitNZVC (aluFlags a.toNat (-(b.toNat : Int)) ((a.toNat : Int) - b.toNat)) sr) false false
      (decide (a = b)) ((a - b).getLsbD 31) := by
  have ha := a.isLt
  refine flagsNZVC_commit ?_ ?_ (by simp [mask32_sub]) sub_eq_zero sr
  · rw [carryOf, decide_eq_false_iff_not]
    omega
  · rw [overflowOf_eq_false_iff]
    omega

/-- A negation is not positive and its right operand is 0: neither C nor V (R164, R165). -/
theorem flagsNZVC_neg (x sr : Word) :
    FlagsNZVC sr (commitNZVC (aluFlags (-(x.toNat : Int)) 0 (-(x.toNat : Int))) sr) false false (decide (x = 0))
      ((-x).getLsbD 31) := by
  refine flagsNZVC_commit ?_ ?_ (by simp [mask32_neg]) neg_eq_zero sr
  · rw [carryOf, decide_eq_false_iff_not]
    omega
  · rw [overflowOf_eq_false_iff]
    omega

/-- A quotient fits a word, and is 0 when the dividend is below the divisor (41_stack_arithmetic.md R204). -/
theorem flagsNZVC_div {a b : Word} (hb : b ≠ 0) (sr : Word) :
    FlagsNZVC sr (commitNZVC (aluFlags a.toNat b.toNat (Int.fdiv (a.toNat : Int) b.toNat)) sr) false false
      (decide (a.toNat < b.toNat)) ((a / b).getLsbD 31) := by
  have hquot : Int.fdiv (a.toNat : Int) b.toNat = ((a / b).toNat : Int) := by
    rw [Int.fdiv_eq_ediv_of_nonneg _ (by omega), BitVec.toNat_udiv, Int.natCast_ediv]
  have hzero : a / b = 0 ↔ a.toNat < b.toNat := by
    rw [← BitVec.toNat_inj, BitVec.toNat_udiv]
    simp [Nat.div_eq_zero_iff, toNat_ne_zero hb]
  rw [hquot]
  exact flagsNZVC_commit (carryOf_toNat _) (overflowOf_of_nonneg (by omega) (by omega) _) (mask32_toNat _) hzero sr

/-- The flags of a complement (41_stack_arithmetic.md R207). -/
theorem flagsNZ_not (x sr : Word) :
    FlagsNZ sr (commitNZ (aluFlags (-(x.toNat : Int) - 1) 0 (-(x.toNat : Int) - 1)) sr) (decide (x = 0xFFFFFFFF#32))
      (!x.getLsbD 31) := by
  have hzero : ~~~x = 0 ↔ x = 0xFFFFFFFF#32 := by
    rw [← BitVec.not_inj (x := x)]
    rfl
  have hneg : (~~~x).getLsbD 31 = !x.getLsbD 31 := by simp
  rw [← hneg]
  exact flagsNZ_commit (by simp [mask32_cpl]) hzero sr

/-! ## The computing transfers (40_datapath.md R190) -/

/-- From `s` the transfers `ms` leave `r` in DR and `sr` in SR in `n` ticks, change nothing else, and run on into what follows. -/
def Computes (ms : List MicroInstr) (s : State) (r sr : Word) (n : Nat) : Prop :=
  ∀ rest, runMicro (ms ++ rest) s =
    runMicro rest { s with dr := r, sr := sr, ticks := s.ticks + n, microPos := s.microPos + n }

theorem Computes.nil (s : State) : Computes [] s s.dr s.sr 0 := fun _ => rfl

theorem Computes.cons {m : MicroInstr} {ms : List MicroInstr} {s : State} {d x r sr : Word} {n : Nat}
    (hm : dataPath m s = .ok { s with dr := d, sr := x })
    (hms : Computes ms { s with dr := d, sr := x, ticks := s.ticks + 1, microPos := s.microPos + 1 } r sr n) :
    Computes (m :: ms) s r sr (n + 1) := by
  intro rest
  rw [List.cons_append, runMicro_ok hm, hms]
  simp only [Nat.add_assoc, Nat.add_comm 1]

theorem Computes.single {m : MicroInstr} {s : State} {r sr : Word} (h : dataPath m s = .ok { s with dr := r, sr := sr }) :
    Computes [m] s r sr 1 := .cons h (.nil _)

theorem or_eq_not_nor (a b : Word) : a ||| b = ~~~(~~~a &&& ~~~b) := by
  rw [BitVec.not_and, BitVec.not_not, BitVec.not_not]

/-- The first pass of OR commits nothing; the second commits the flags of the disjunction (41_stack_arithmetic.md R206). -/
theorem computes_or (s : State) : Computes [uDrNor, uDrNotDr gateNZ] s (s.dr ||| s.br)
    (commitNZ (aluFlags (-((~~~s.dr &&& ~~~s.br).toNat : Int) - 1) 0 (-((~~~s.dr &&& ~~~s.br).toNat : Int) - 1)) s.sr)
    2 := by
  rw [or_eq_not_nor]
  exact .cons (dataPath_uDrNor s) (.single (dataPath_uDrNotDr_NZ _))

/-- SHIFT_FLAGS = pre: the shifting transfer commits the flags of its operand (41_stack_arithmetic.md R209). -/
theorem computes_shift_pre {shift : BitVec 10} {s : State} {r : Word} (hr : commutate s.dr (shift ||| gateNZ) = .ok r)
    (hgate : (shift ||| gateNZ).extractLsb' 7 3 = 1#3) :
    Computes (shiftCompute shift .pre) s r (commitNZ (aluFlags s.dr.toNat 0 s.dr.toNat) s.sr) 1 :=
  .single (dataPath_shiftNZ hr hgate)

/-- SHIFT_FLAGS = post: a transfer after the shift commits the flags of the result. -/
theorem computes_shift_post {shift : BitVec 10} {s : State} {r : Word} (hr : commutate s.dr shift = .ok r)
    (hgate : shift.extractLsb' 7 3 = 0#3) :
    Computes (shiftCompute shift .post) s r (commitNZ (aluFlags r.toNat 0 r.toNat) s.sr) 2 :=
  .cons (dataPath_shift hr hgate) (.single (dataPath_testDr _))

/-! ## The binary and the unary microprograms (40_datapath.md R190, 41_stack_arithmetic.md R200) -/

/-- The state after both operands were read: BR is TOS and DR is NOS. -/
def State.pairRead (s : State) : State :=
  { s with ar := trunc24 (s.sp + 1), br := s.tos, dr := s.nos, ticks := s.ticks + 5, microPos := s.microPos + 5 }

/-- The state after the top cell was read: DR is TOS. -/
def State.topRead (s : State) : State :=
  { s with ar := trunc24 s.sp, dr := s.tos, ticks := s.ticks + 2, microPos := s.microPos + 2 }

/-- A binary microprogram around its computing transfers. -/
theorem exec_binaryProgram {i : Instr} {compute : List MicroInstr} {s : State} {r sr : Word} {n : Nat}
    (hexec : exec i s = .next (runMicro (binaryProgram compute) s)) (h : Computes compute s.pairRead r sr n) :
    ∃ t, exec i s = .next t ∧ BinaryEffect s t r (5 + n + 2) ∧ t.sr = sr := by
  rw [hexec, binaryProgram, List.append_assoc, runMicro_readPair, ← State.pairRead, h, runMicro_writePop _ (trunc24_lt _)]
  refine ⟨_, rfl, ⟨rfl, rfl, rfl, rfl, rfl, rfl, stores_write _ _ _, ⟨rfl, rfl, rfl, rfl, rfl, rfl, ?_, ?_⟩⟩, rfl⟩
  · simp only [State.pairRead]
    omega
  · simp only [State.pairRead]
    omega

/-- A unary microprogram around its computing transfers. -/
theorem exec_unaryProgram {i : Instr} {compute : List MicroInstr} {s : State} {r sr : Word} {n : Nat}
    (hexec : exec i s = .next (runMicro (unaryProgram compute) s)) (h : Computes compute s.topRead r sr n) :
    ∃ t, exec i s = .next t ∧ UnaryEffect s t r (2 + n + 1) ∧ t.sr = sr := by
  rw [hexec, unaryProgram, List.append_assoc, runMicro_readTop, ← State.topRead, h, runMicro_write _ (trunc24_lt _)]
  refine ⟨_, rfl, ⟨rfl, rfl, rfl, rfl, rfl, rfl, stores_write _ _ _, ⟨rfl, rfl, rfl, rfl, rfl, rfl, ?_, ?_⟩⟩, rfl⟩
  · simp only [State.topRead]
    omega
  · simp only [State.topRead]
    omega

/-! ## ADD, SUB and MUL (41_stack_arithmetic.md R201 to R203) -/

/-- Settles O17: the combining transfer of each, and its flags. -/
theorem addSubMulResult : Obligations.AddSubMulResult := by
  refine ⟨rfl, rfl, rfl, fun s => ?_, fun s => ?_, fun s => ?_⟩
  · obtain ⟨t, ht, heffect, hsr⟩ := exec_binaryProgram (exec_eq_runMicro .add s) (.single (dataPath_combine_add _))
    have hmask : mask32 ((s.nos.toNat + s.tos.toNat : Nat) : Int) = s.nos + s.tos := by simp [mask32_add]
    exact ⟨t, ht, heffect, hsr ▸ flagsNZVC_natCast hmask Iff.rfl s.sr⟩
  · obtain ⟨t, ht, heffect, hsr⟩ := exec_binaryProgram (exec_eq_runMicro .sub s) (.single (dataPath_combine_sub _))
    exact ⟨t, ht, heffect, hsr ▸ flagsNZVC_sub s.nos s.tos s.sr⟩
  · obtain ⟨t, ht, heffect, hsr⟩ := exec_binaryProgram (exec_eq_runMicro .mul s) (.single (dataPath_combine_mul _))
    have hmask : mask32 ((s.nos.toNat * s.tos.toNat : Nat) : Int) = s.nos * s.tos := by simp [mask32_mul]
    exact ⟨t, ht, heffect, hsr ▸ flagsNZVC_natCast hmask Iff.rfl s.sr⟩

/-! ## DIV (41_stack_arithmetic.md R204) -/

/-- A zero divisor stops the program in its combining transfer, before the WRITE, SP+1 and the commit. -/
theorem runMicro_div_zero {s : State} (h : s.tos = 0) :
    runMicro divProgram s = State.raiseFault { s.pairRead with ticks := s.ticks + 6 } .divisionByZero := by
  rw [divProgram, binaryProgram, List.append_assoc, runMicro_readPair, List.singleton_append,
    runMicro_error (dataPath_combine_div_zero _ h)]
  rfl

/-- Settles O18: by the divisor, which the DIV transfer reads from BR. -/
theorem divResult : Obligations.DivResult := by
  refine ⟨rfl, fun s hs => ?_, fun s hs => ?_⟩
  · obtain ⟨t, ht, heffect, hsr⟩ := exec_binaryProgram (exec_eq_runMicro .div s) (.single (dataPath_combine_div _ hs))
    exact ⟨t, ht, heffect, BitVec.toNat_udiv, hsr ▸ flagsNZVC_div hs s.sr⟩
  · exact ⟨_, (exec_eq_runMicro .div s).trans (congrArg _ (runMicro_div_zero hs)), rfl, rfl, rfl, rfl, rfl⟩

/-! ## AND and OR (41_stack_arithmetic.md R205, R206) -/

/-- Settles O20: AND in one transfer, OR in two by De Morgan. -/
theorem andOrResult : Obligations.AndOrResult := by
  refine ⟨rfl, rfl, fun s => ?_, fun s => ?_⟩
  · obtain ⟨t, ht, heffect, hsr⟩ := exec_binaryProgram (exec_eq_runMicro .and s) (.single (dataPath_combine_and _))
    have hmask : mask32 (intAnd s.nos.toNat s.tos.toNat) = s.nos &&& s.tos := by simp [mask32_intAnd]
    exact ⟨t, ht, heffect, hsr ▸ flagsNZ_commit hmask Iff.rfl s.sr⟩
  · obtain ⟨t, ht, heffect, hsr⟩ := exec_binaryProgram (exec_eq_runMicro .or s) (computes_or _)
    have hmask : mask32 (-((~~~s.nos &&& ~~~s.tos).toNat : Int) - 1) = s.nos ||| s.tos := by
      rw [mask32_cpl, mask32_toNat, or_eq_not_nor]
    exact ⟨t, ht, heffect, hsr ▸ flagsNZ_commit hmask Iff.rfl s.sr⟩

/-! ## NOT and NEG (41_stack_arithmetic.md R207, R208) -/

/-- Settles O21: the one transfer of each, and its flags. -/
theorem notNegResult : Obligations.NotNegResult := by
  refine ⟨rfl, rfl, fun s => ?_, fun s => ?_⟩
  · obtain ⟨t, ht, heffect, hsr⟩ := exec_unaryProgram (exec_eq_runMicro .not s) (.single (dataPath_uDrNotDr_NZ _))
    exact ⟨t, ht, heffect, hsr ▸ flagsNZ_not s.tos s.sr⟩
  · obtain ⟨t, ht, heffect, hsr⟩ := exec_unaryProgram (exec_eq_runMicro .neg s) (.single (dataPath_neg _))
    exact ⟨t, ht, heffect, hsr ▸ flagsNZVC_neg s.tos s.sr⟩

/-! ## SHL, SHR, ROL and ROR (41_stack_arithmetic.md R209 to R212) -/

/-- A shift of TOS, for either value of SHIFT_FLAGS. The two gate hypotheses say that the code itself commits nothing, and {NZ}
with the gate. -/
theorem exec_shift {i : Instr} {shift : BitVec 10} {s : State} {r : Word}
    (hexec : exec i s = .next (runMicro (unaryProgram (shiftCompute shift s.shiftFlags)) s))
    (hpost : commutate s.tos shift = .ok r) (hpre : commutate s.tos (shift ||| gateNZ) = .ok r)
    (hgate : shift.extractLsb' 7 3 = 0#3) (hgateNZ : (shift ||| gateNZ).extractLsb' 7 3 = 1#3) :
    ∃ t, exec i s = .next t ∧ ShiftEffect s t r := by
  cases hflags : s.shiftFlags with
  | pre =>
    rw [hflags] at hexec
    obtain ⟨t, ht, heffect, hsr⟩ := exec_unaryProgram hexec (computes_shift_pre hpre hgateNZ)
    have hNZ : FlagsNZ s.sr t.sr (decide (s.tos = 0)) (s.tos.getLsbD 31) :=
      hsr ▸ flagsNZ_commit (mask32_toNat _) Iff.rfl s.sr
    exact ⟨t, ht, { pre := fun _ => ⟨heffect, hNZ⟩, post := fun h => (nomatch hflags.symm.trans h) }⟩
  | post =>
    rw [hflags] at hexec
    obtain ⟨t, ht, heffect, hsr⟩ := exec_unaryProgram hexec (computes_shift_post hpost hgate)
    have hNZ : FlagsNZ s.sr t.sr (decide (r = 0)) (r.getLsbD 31) :=
      hsr ▸ flagsNZ_commit (mask32_toNat _) Iff.rfl s.sr
    exact ⟨t, ht, { pre := fun h => (nomatch hflags.symm.trans h), post := fun _ => ⟨heffect, hNZ⟩ }⟩

/-- Settles O22: the commutator's output at each of the four codes. -/
theorem shiftResults : Obligations.ShiftResults :=
  ⟨rfl, rfl, rfl, rfl, fun s =>
    ⟨exec_shift (exec_eq_runMicro .shl s) (commutate_SHL _) (commutate_SHL_NZ _) (by decide) (by decide),
      exec_shift (exec_eq_runMicro .shr s) (commutate_SHR _) (commutate_SHR_NZ _) (by decide) (by decide),
      exec_shift (exec_eq_runMicro .rol s) (commutate_ROL _) (commutate_ROL_NZ _) (by decide) (by decide),
      exec_shift (exec_eq_runMicro .ror s) (commutate_ROR _) (commutate_ROR_NZ _) (by decide) (by decide)⟩⟩

/-! ## CMP (41_stack_arithmetic.md R213) -/

/-- CMP reads both operands and commits the flags of their difference; it ends there, with no WRITE and no SP+1. -/
theorem runMicro_cmp (s : State) :
    runMicro cmpProgram s =
      { s.pairRead with
        sr := commitNZVC (aluFlags s.nos.toNat (-(s.tos.toNat : Int)) ((s.nos.toNat : Int) - s.tos.toNat)) s.sr
        ticks := s.ticks + 6, microPos := s.microPos + 6 } := by
  rw [cmpProgram, runMicro_readPair, runMicro_ok (dataPath_cmp _), runMicro_nil]
  rfl

/-- Settles O23: the state CMP leaves, and the flags of SUB. -/
theorem cmpResult : Obligations.CmpResult := by
  refine ⟨rfl, fun s => ⟨_, (exec_eq_runMicro .cmp s).trans (congrArg _ (runMicro_cmp s)), flagsNZVC_sub s.nos s.tos s.sr,
    rfl, rfl, rfl, rfl, rfl, rfl, rfl, ?_⟩⟩
  exact ⟨rfl, rfl, rfl, rfl, rfl, rfl, rfl, rfl⟩

end Sys2Proof.Machine
end

section
/-! Proofs of the family 42_stack_management, in this order: the word of an instruction with an operand, what a push of one
cell leaves, and the instructions. -/

namespace Sys2Proof.Machine

/-! ## The word of an instruction with an operand (30_encoding.md R84, R127) -/

/-- An opcode byte before an operand, as the two parts in their places. -/
theorem byte_append_operand (b : Byte) (x : Addr) : (b ++ x : Word) = (b ++ 0#24) ||| x.setWidth 32 := by
  have hx : x.setWidth 32 = 0#8 ++ x := BitVec.setWidth_eq_append (by decide)
  rw [hx, BitVec.or_append, BitVec.or_zero, BitVec.zero_or]

/-! ## The push of one cell (42_stack_management.md R230) -/

/-- SP down by one, and AR naming the cell it now names: what SP-1 leaves. -/
def State.spLowered (s : State) : State :=
  { s with sp := trunc24 (s.sp - 1), ar := trunc24 (s.sp - 1), ticks := s.ticks + 1, microPos := s.microPos + 1 }

theorem spLowered_cr (s : State) : s.spLowered.cr = s.cr := rfl

/-- The state after a push of `v` that took `n` ticks. -/
def State.pushed (s : State) (v : Word) (n : Nat) : State :=
  { s with sp := trunc24 (s.sp - 1), ar := trunc24 (s.sp - 1), dr := v, mem := s.mem.write s.pushAddr v
           ticks := s.ticks + n, microPos := s.microPos + n }

theorem pushed_cr (s : State) (v : Word) (n : Nat) : (s.pushed v n).cr = s.cr := rfl

theorem runMicro_uSpDec (rest : List MicroInstr) (s : State) : runMicro (uSpDec :: rest) s = runMicro rest s.spLowered :=
  runMicro_ok (dataPath_uSpDec s)

/-- A push, whatever becomes of PC and CR. -/
theorem pushEffect_pushed (s : State) (v pc cr : Word) (n : Nat) :
    PushEffect s { s.pushed v n with pc := pc, cr := cr } v n :=
  ⟨rfl, rfl, rfl, rfl, rfl, stores_write _ _ _, ⟨rfl, rfl, rfl, rfl, rfl, rfl, rfl, rfl⟩⟩

/-- SP-1; a transfer of the word to DR; WRITE, then the rest. -/
theorem runMicro_push {load : MicroInstr} {s : State} {v : Word} (rest : List MicroInstr)
    (hload : dataPath load s.spLowered = .ok { s.spLowered with dr := v }) :
    runMicro (uSpDec :: load :: uWRITE :: rest) s = runMicro rest (s.pushed v 3) := by
  rw [runMicro_uSpDec, runMicro_ok hload, runMicro_ok (dataPath_uWRITE (trunc24_lt _))]
  rfl

theorem runMicro_pushf (s : State) : runMicro pushfProgram s = s.pushed s.sr 3 :=
  runMicro_push [] (dataPath_drSr _)

/-- DUP reads the word it pushes before SP-1. -/
theorem runMicro_dup (s : State) : runMicro dupProgram s = s.pushed s.tos 4 := by
  rw [dupProgram, runMicro_readTop, runMicro_uSpDec, runMicro_ok (dataPath_uWRITE (trunc24_lt _))]
  rfl

/-- PUSH, on a CR that holds the operand. -/
theorem runMicro_push_operand (s : State) (x : Addr) :
    runMicro pushProgram (s.loadOperand x) = (s.loadOperand x).pushed (x.setWidth 32) 3 := by
  have hload := dataPath_drCr (s.loadOperand x).spLowered
  rw [spLowered_cr, loadOperand_cr, trunc24_operand] at hload
  exact runMicro_push [] hload

/-- CALL pushes the PC it finds and then jumps to the operand CR holds. -/
theorem runMicro_call (s : State) (x : Addr) :
    runMicro callProgram (s.loadOperand x) =
      { (s.loadOperand x).pushed s.pc 4 with pc := x.setWidth 32 } := by
  rw [callProgram, runMicro_push _ (dataPath_drPc _), runMicro_ok (dataPath_uPcCr _), runMicro_nil,
    pushed_cr, loadOperand_cr, trunc24_operand]
  rfl

/-! ## POP (42_stack_management.md R231) -/

/-- Settles O24: the one transfer of POP. -/
theorem popResult : Obligations.PopResult :=
  ⟨rfl, fun s => (exec_eq_runMicro .pop s).trans (congrArg _ (runMicro_ok (dataPath_uSpInc1 s)))⟩

/-! ## POPF and RET (42_stack_management.md R233, R240) -/

/-- The state after the top cell was read and popped. -/
def State.popped (s : State) : State :=
  { s with sp := trunc24 (s.sp + 1), ar := trunc24 s.sp, dr := s.tos, ticks := s.ticks + 4, microPos := s.microPos + 4 }

/-- A pop, whatever it writes to PC and SR. -/
theorem popped_controlKept (s : State) (pc sr : Word) : ControlKept s { s.popped with pc := pc, sr := sr } 4 :=
  ⟨rfl, rfl, rfl, rfl, rfl, rfl, rfl, rfl⟩

theorem runMicro_popf (s : State) : runMicro popfProgram s = { s.popped with sr := s.tos } := by
  rw [popfProgram, runMicro_readTop, runMicro_ok (dataPath_srDr _), runMicro_ok (dataPath_uSpInc1 _)]
  rfl

theorem runMicro_ret (s : State) : runMicro retProgram s = { s.popped with pc := trunc24 s.tos } := by
  rw [retProgram, runMicro_readTop, runMicro_ok (dataPath_uPcDr _), runMicro_ok (dataPath_uSpInc1 _)]
  rfl

theorem exec_popf (s : State) : exec .popf s = .next { s.popped with sr := s.tos } :=
  (exec_eq_runMicro .popf s).trans (congrArg _ (runMicro_popf s))

theorem exec_ret (s : State) : exec .ret s = .next { s.popped with pc := trunc24 s.tos } :=
  (exec_eq_runMicro .ret s).trans (congrArg _ (runMicro_ret s))

/-- Settles O25: the popped word is SR, so its bit 15 is RUN at the top of the next cycle. -/
theorem popfResult : Obligations.PopfResult := by
  refine ⟨rfl, fun s hrun hdec hbit => ?_, fun s => ?_⟩
  · exact haltsAfter_of_exec hrun hdec (exec_popf _) hrun.fault hbit
  · exact ⟨_, exec_popf s, rfl, rfl, rfl, rfl, rfl, rfl, rfl, rfl, popped_controlKept s s.pc s.tos⟩

/-- Settles O30: the popped word, cut to an address, is PC. -/
theorem retResult : Obligations.RetResult :=
  ⟨rfl, fun s => ⟨_, exec_ret s, rfl, rfl, rfl, rfl, rfl, rfl, rfl, rfl, popped_controlKept s (trunc24 s.tos) s.sr⟩⟩

/-! ## INC and DEC (42_stack_management.md R234, R235) -/

/-- A successor carries exactly at the greatest word, and never overflows. -/
theorem flagsNZVC_inc (x sr : Word) :
    FlagsNZVC sr (commitNZVC (aluFlags x.toNat 1 ((x.toNat : Int) + 1)) sr) (decide (x = 0xFFFFFFFF#32)) false
      (decide (x + 1 = 0)) ((x + 1).getLsbD 31) := by
  have hcarry : 0xFFFFFFFF < x.toNat + 1 ↔ x = 0xFFFFFFFF#32 := by
    have := x.isLt
    rw [← BitVec.toNat_inj, show (0xFFFFFFFF#32).toNat = 0xFFFFFFFF from rfl]
    omega
  rw [← decide_eq_decide.mpr hcarry]
  exact flagsNZVC_natCast (mask32_toNat_add_one x) Iff.rfl sr

/-- A predecessor never carries, and its left operand is not negative: neither C nor V (40_datapath.md R164, R165). -/
theorem flagsNZVC_dec (x sr : Word) :
    FlagsNZVC sr (commitNZVC (aluFlags x.toNat (-1) ((x.toNat : Int) - 1)) sr) false false (decide (x = 1))
      ((x - 1).getLsbD 31) := by
  have hx := x.isLt
  refine flagsNZVC_commit ?_ ?_ (by simp [mask32_sub]) sub_eq_zero sr
  · rw [carryOf, decide_eq_false_iff_not]
    omega
  · rw [overflowOf_eq_false_iff]
    omega

/-- Settles O26: the one transfer of each, and its flags. -/
theorem incDecResult : Obligations.IncDecResult := by
  refine ⟨rfl, rfl, fun s => ?_, fun s => ?_⟩
  · obtain ⟨t, ht, heffect, hsr⟩ := exec_unaryProgram (exec_eq_runMicro .inc s) (.single (dataPath_inc _))
    exact ⟨t, ht, heffect, hsr ▸ flagsNZVC_inc s.tos s.sr⟩
  · obtain ⟨t, ht, heffect, hsr⟩ := exec_unaryProgram (exec_eq_runMicro .dec s) (.single (dataPath_dec _))
    exact ⟨t, ht, heffect, hsr ▸ flagsNZVC_dec s.tos s.sr⟩

/-! ## SWAP (42_stack_management.md R236) -/

/-- The two top cells are two cells, also where SP + 1 wraps (00_scope.md R15). -/
theorem tosAddr_ne_nosAddr (s : State) : s.tosAddr ≠ s.nosAddr := by
  rw [State.tosAddr, State.nosAddr, trunc24_toNat, trunc24_toNat, BitVec.toNat_add, show (1 : Word).toNat = 1 from rfl]
  omega

/-- SWAP writes NOS to the top cell, then TOS, kept in BR, to the next. -/
theorem runMicro_swap (s : State) :
    runMicro swapProgram s =
      { s with ar := trunc24 (s.sp + 1), dr := s.tos, br := s.tos
               mem := (s.mem.write s.tosAddr s.nos).write s.nosAddr s.tos
               ticks := s.ticks + 10, microPos := s.microPos + 10 } := by
  rw [swapProgram, runMicro_readPair, runMicro_ok (dataPath_uArSp _), runMicro_ok (dataPath_uWRITE (trunc24_lt _)),
    runMicro_ok (dataPath_uArSp1 _), runMicro_ok (dataPath_uDrBr _), runMicro_ok (dataPath_uWRITE (trunc24_lt _))]
  rfl

/-- Settles O27: two writes to two cells. -/
theorem swapResult : Obligations.SwapResult := by
  refine ⟨rfl, fun s => ⟨_, (exec_eq_runMicro .swap s).trans (congrArg _ (runMicro_swap s)), ?_,
    Memory.read_write_same _ _ _, fun a htos hnos => ?_, rfl, rfl, rfl, rfl, rfl, rfl, rfl, rfl,
    ⟨rfl, rfl, rfl, rfl, rfl, rfl, rfl, rfl⟩⟩⟩
  · exact (Memory.read_write_other _ _ (tosAddr_ne_nosAddr s)).trans (Memory.read_write_same _ _ _)
  · exact (Memory.read_write_other _ _ hnos).trans (Memory.read_write_other _ _ htos)

/-! ## PUSHF, DUP and PUSH (42_stack_management.md R232, R237, R238) -/

/-- Settles O28: the pushed word of each; PUSHF pushes all of SR, RUN among its bits. -/
theorem pushResults : Obligations.PushResults := by
  refine ⟨rfl, rfl, byte_append_operand 0x80#8, fun s => ?_, fun s => ?_, fun s x => ?_⟩
  · refine ⟨_, (exec_eq_runMicro .pushf s).trans (congrArg _ (runMicro_pushf s)), pushEffect_pushed s s.sr s.pc s.cr 3, rfl,
      rfl, fun hrun => ?_⟩
    exact (congrArg (BitVec.getLsbD · 15) (Memory.read_write_same _ _ _)).trans hrun
  · exact ⟨_, (exec_eq_runMicro .dup s).trans (congrArg _ (runMicro_dup s)), pushEffect_pushed s s.tos s.pc s.cr 4, rfl,
      rfl⟩
  · exact ⟨_, (exec_eq_runMicro (.push x) s).trans (congrArg _ (runMicro_push_operand s x)),
      pushEffect_pushed s _ s.pc (s.loadOperand x).cr 3, rfl, rfl⟩

/-! ## CALL (42_stack_management.md R239) -/

/-- Settles O29: the push of PC, then the jump. -/
theorem callResult : Obligations.CallResult :=
  ⟨byte_append_operand 0x84#8, fun s x =>
    ⟨_, (exec_eq_runMicro (.call x) s).trans (congrArg _ (runMicro_call s x)),
      pushEffect_pushed s s.pc (x.setWidth 32) (s.loadOperand x).cr 4, rfl, rfl⟩⟩

end Sys2Proof.Machine
end

section
/-! Proofs of the family 43_control_flow, in this order: the one microprogram of a jump, and the jumps. -/

namespace Sys2Proof.Machine

/-! ## The microprogram of a jump (40_datapath.md R190) -/

/-- A taken jump, on a CR that holds the operand: one transfer, one tick. -/
theorem runMicro_jump_taken (s : State) (x : Addr) :
    runMicro (jumpProgram true) (s.loadOperand x) =
      { s.loadOperand x with pc := x.setWidth 32, ticks := s.ticks + 1, microPos := s.microPos + 1 } := by
  rw [jumpProgram, if_pos rfl, runMicro_ok (dataPath_uPcCr _), runMicro_nil, loadOperand_cr, trunc24_operand]
  rfl

/-- A jump not taken runs no microinstruction. -/
theorem runMicro_jump_notTaken (s : State) (x : Addr) : runMicro (jumpProgram false) (s.loadOperand x) = s.loadOperand x :=
  runMicro_nil _

/-- What every jump does, whatever its condition (43_control_flow.md R260). -/
theorem jumpEffect_runMicro (s : State) (x : Addr) (taken : Bool) :
    JumpEffect s (runMicro (jumpProgram taken) (s.loadOperand x)) x taken := by
  cases taken with
  | true =>
    rw [runMicro_jump_taken]
    exact ⟨rfl, rfl, rfl, rfl, rfl, rfl, rfl, rfl, ⟨rfl, rfl, rfl, rfl, rfl, rfl, rfl, rfl⟩⟩
  | false =>
    rw [runMicro_jump_notTaken]
    exact ⟨rfl, rfl, rfl, rfl, rfl, rfl, rfl, rfl, ⟨rfl, rfl, rfl, rfl, rfl, rfl, rfl, rfl⟩⟩

/-! ## The jumps (43_control_flow.md R261 to R268) -/

/-- JZ and JE run one microprogram under one condition (30_encoding.md R91; 43_control_flow.md R262, R263). -/
theorem exec_jz_eq_exec_je (x : Addr) (s : State) : exec (.jz x) s = exec (.je x) s :=
  (exec_eq_runMicro (.jz x) s).trans (exec_eq_runMicro (.je x) s).symm

/-- Settles O31: every jump is the one microprogram under its own condition on SR. -/
theorem jumpResults : Obligations.JumpResults := by
  refine ⟨fun x => ⟨?_, ?_, ?_, ?_, ?_, ?_, ?_, ?_⟩, fun s x => ⟨?_, ?_, ?_, ?_, ?_, ?_, ?_, ?_, exec_jz_eq_exec_je x s⟩⟩
  · exact byte_append_operand 0x88#8 x
  · exact byte_append_operand 0x8C#8 x
  · exact byte_append_operand 0x90#8 x
  · exact byte_append_operand 0x94#8 x
  · exact byte_append_operand 0x98#8 x
  · exact byte_append_operand 0x9C#8 x
  · exact byte_append_operand 0xA0#8 x
  · exact byte_append_operand 0xA4#8 x
  · exact ⟨_, exec_eq_runMicro (.jmp x) s, jumpEffect_runMicro s x true⟩
  · exact ⟨_, exec_eq_runMicro (.jz x) s, jumpEffect_runMicro s x (condJz s)⟩
  · exact ⟨_, exec_eq_runMicro (.je x) s, jumpEffect_runMicro s x (condJe s)⟩
  · exact ⟨_, exec_eq_runMicro (.jnz x) s, jumpEffect_runMicro s x (condJnz s)⟩
  · exact ⟨_, exec_eq_runMicro (.jg x) s, jumpEffect_runMicro s x (condJg s)⟩
  · exact ⟨_, exec_eq_runMicro (.jge x) s, jumpEffect_runMicro s x (condJge s)⟩
  · exact ⟨_, exec_eq_runMicro (.jl x) s, jumpEffect_runMicro s x (condJl s)⟩
  · exact ⟨_, exec_eq_runMicro (.jle x) s, jumpEffect_runMicro s x (condJle s)⟩

end Sys2Proof.Machine
end

section
/-! Proofs of the family 44_memory: each instruction reads its address from the top cell through CUTB, so every READ and WRITE has
its AR in range, and neither can fault. -/

namespace Sys2Proof.Machine

/-! ## LD (44_memory.md R281) -/

/-- The cell that the low 24 bits of TOS name: what LD loads (44_memory.md R280). -/
def State.atTos (s : State) : Word := s.mem.read (trunc24 s.tos).toNat

/-- LD reads through TOS and writes the word it read back to the top cell, to which AR returns. -/
theorem runMicro_ld (s : State) :
    runMicro ldProgram s =
      { s with ar := trunc24 s.sp, dr := s.atTos, mem := s.mem.write s.tosAddr s.atTos
               ticks := s.ticks + 6, microPos := s.microPos + 6 } := by
  rw [ldProgram, runMicro_readTop, runMicro_ok (dataPath_arDr _), runMicro_ok (dataPath_uREAD (trunc24_lt _)),
    runMicro_ok (dataPath_uArSp _), runMicro_write _ (trunc24_lt _)]
  rfl

/-- Settles O32: one write, to the top cell. -/
theorem ldResult : Obligations.LdResult :=
  ⟨rfl, fun s => ⟨_, (exec_eq_runMicro .ld s).trans (congrArg _ (runMicro_ld s)), stores_write _ _ _,
    rfl, rfl, rfl, rfl, rfl, rfl, rfl, ⟨rfl, rfl, rfl, rfl, rfl, rfl, rfl, rfl⟩⟩⟩

/-! ## ST (44_memory.md R282) -/

/-- ST keeps the address in BR while it reads NOS; both reads come before the write, so the word stored is NOS also where the
address names a stack cell. -/
theorem runMicro_st (s : State) :
    runMicro stProgram s =
      { s with sp := trunc24 (s.sp + 2), ar := trunc24 s.tos, br := trunc24 s.tos, dr := s.nos
               mem := s.mem.write (trunc24 s.tos).toNat s.nos
               ticks := s.ticks + 8, microPos := s.microPos + 8 } := by
  rw [stProgram, runMicro_readTop, runMicro_ok (dataPath_brDrCut _), runMicro_ok (dataPath_uArSp1 _),
    runMicro_ok (dataPath_uREAD (trunc24_lt _)), runMicro_ok (dataPath_arBr _), runMicro_ok (dataPath_uWRITE (trunc24_lt _)),
    runMicro_ok (dataPath_uSpInc2 _), runMicro_nil]
  simp only [trunc24_trunc24]
  rfl

/-- Settles O33: one write, to the cell that TOS names. -/
theorem stResult : Obligations.StResult :=
  ⟨rfl, fun s => ⟨_, (exec_eq_runMicro .st s).trans (congrArg _ (runMicro_st s)), stores_write _ _ _,
    rfl, rfl, rfl, rfl, rfl, rfl, rfl, ⟨rfl, rfl, rfl, rfl, rfl, rfl, rfl, rfl⟩⟩⟩

end Sys2Proof.Machine
end

section
/-! Proofs of the family 45_device_control, in this order: bit 31 of a word, the stretch that the three microprograms share, and
the instructions. AR comes from the operand through CUTB, so no READ or WRITE here can fault. -/

namespace Sys2Proof.Machine

/-! ## Bit 31 of a word -/

theorem getLsbD_bit31 (j : Nat) : (0x80000000#32).getLsbD j = decide (j = 31) := by
  rw [show 0x80000000#32 = BitVec.twoPow 32 31 from rfl, BitVec.getLsbD_twoPow]
  by_cases h : j = 31
  · simp [h]
  · simp [h, Ne.symm h]

theorem and_bit31_getLsbD (w : Word) : (w &&& 0x80000000#32).getLsbD 31 = w.getLsbD 31 := by
  rw [BitVec.getLsbD_and, getLsbD_bit31, decide_eq_true rfl, Bool.and_true]

/-- The AND with bit 31 alone is 0 exactly when the word has that bit clear. -/
theorem and_bit31_eq_zero_iff (w : Word) : w &&& 0x80000000#32 = 0 ↔ w.getLsbD 31 = false := by
  constructor
  · intro h
    rw [← and_bit31_getLsbD, h]
    rfl
  · intro h
    apply BitVec.eq_of_getLsbD_eq
    intro j _
    rw [BitVec.getLsbD_and, getLsbD_bit31]
    by_cases hj : j = 31
    · subst hj
      rw [h]
      rfl
    · simp [hj]

/-- The flags of CHECK: Z and N of the AND with bit 31 alone (45_device_control.md R293). -/
theorem flagsNZ_check (w sr : Word) :
    FlagsNZ sr (commitNZ (aluFlags w.toNat (0x80000000#32).toNat (intAnd w.toNat (0x80000000#32).toNat)) sr)
      (!w.getLsbD 31) (w.getLsbD 31) := by
  have hres : mask32 (intAnd w.toNat (0x80000000#32).toNat) = w &&& 0x80000000#32 := by
    rw [mask32_intAnd, mask32_toNat, mask32_toNat]
  have h := flagsNZ_commit (l := w.toNat) (r := (0x80000000#32).toNat) hres (and_bit31_eq_zero_iff w) sr
  rwa [Bool.decide_eq_false, and_bit31_getLsbD] at h

/-! ## The operand as a cell index, its cell, and BIT31 (40_datapath.md R189, R190; 45_device_control.md R290) -/

/-- The state after the cell `d` was read into DR and BIT31 into BR, on a CR that holds the operand. -/
def State.operandRead (s : State) (d : Addr) : State :=
  { s.loadOperand d with ar := d.setWidth 32, dr := s.mem.read d.toNat, br := 0x80000000#32
                         ticks := s.ticks + 3, microPos := s.microPos + 3 }

theorem toNat_setWidth_addr (d : Addr) : (d.setWidth 32).toNat = d.toNat :=
  BitVec.toNat_setWidth_of_le (by decide)

/-- AR=CR; READ; BIT31, then the rest: how SET, UNSET and CHECK begin. -/
theorem runMicro_operandRead (rest : List MicroInstr) (s : State) (d : Addr) :
    runMicro (uArCr :: uREAD :: uBit31 :: rest) (s.loadOperand d) = runMicro rest (s.operandRead d) := by
  rw [runMicro_ok (dataPath_uArCr _), runMicro_ok (dataPath_uREAD (trunc24_lt _)), runMicro_ok (dataPath_uBit31 _)]
  simp only [loadOperand_cr, trunc24_operand, toNat_setWidth_addr]
  rfl

/-- The state after `n` ticks of computing transfers on the cell `d` and the WRITE of their result `v` to it. -/
def State.operandWritten (s : State) (d : Addr) (v : Word) (n : Nat) : State :=
  { s.operandRead d with dr := v, mem := s.mem.write d.toNat v, ticks := s.ticks + 3 + n + 1, microPos := s.microPos + 3 + n + 1 }

/-- The microprogram of SET and UNSET around its computing transfers, which commit no flag. -/
theorem runMicro_operandProgram {compute : List MicroInstr} {s : State} {d : Addr} {v : Word} {n : Nat}
    (h : Computes compute (s.operandRead d) v s.sr n) :
    runMicro (uArCr :: uREAD :: uBit31 :: (compute ++ [uWRITE])) (s.loadOperand d) = s.operandWritten d v n := by
  rw [runMicro_operandRead, h, runMicro_write _ (setWidth_addr_lt d)]
  simp only [State.operandRead, toNat_setWidth_addr]
  rfl

/-! ## SET and UNSET (45_device_control.md R291, R292) -/

/-- SET synthesises the OR in two passes by De Morgan. -/
theorem runMicro_set (s : State) (d : Addr) :
    runMicro setProgram (s.loadOperand d) = s.operandWritten d (s.mem.read d.toNat ||| 0x80000000#32) 2 := by
  rw [or_eq_not_nor]
  exact runMicro_operandProgram (.cons (dataPath_uDrNor _) (.single (dataPath_uDrNotDr_none _)))

/-- UNSET takes the AND with the complement of bit 31 in one transfer. -/
theorem runMicro_unset (s : State) (d : Addr) :
    runMicro unsetProgram (s.loadOperand d) = s.operandWritten d (s.mem.read d.toNat &&& 0x7FFFFFFF#32) 1 := by
  rw [show 0x7FFFFFFF#32 = ~~~0x80000000#32 from rfl]
  exact runMicro_operandProgram (.single (dataPath_unset _))

/-- Settles O34: one write, to the cell that the operand names. -/
theorem setUnsetResult : Obligations.SetUnsetResult := by
  refine ⟨byte_append_operand 0xA8#8, byte_append_operand 0xAC#8, fun s d => ⟨?_, ?_⟩⟩
  · exact ⟨_, (exec_eq_runMicro (.set d) s).trans (congrArg _ (runMicro_set s d)), stores_write _ _ _,
      rfl, rfl, rfl, rfl, rfl, rfl, rfl, ⟨rfl, rfl, rfl, rfl, rfl, rfl, rfl, rfl⟩⟩
  · exact ⟨_, (exec_eq_runMicro (.unset d) s).trans (congrArg _ (runMicro_unset s d)), stores_write _ _ _,
      rfl, rfl, rfl, rfl, rfl, rfl, rfl, ⟨rfl, rfl, rfl, rfl, rfl, rfl, rfl, rfl⟩⟩

/-! ## CHECK (45_device_control.md R293) -/

/-- CHECK commits the flags of the AND with bit 31 and keeps its result nowhere. -/
theorem runMicro_check (s : State) (d : Addr) :
    runMicro checkProgram (s.loadOperand d) =
      { s.operandRead d with
        sr := commitNZ (aluFlags (s.mem.read d.toNat).toNat (0x80000000#32).toNat
          (intAnd (s.mem.read d.toNat).toNat (0x80000000#32).toNat)) s.sr
        ticks := s.ticks + 4, microPos := s.microPos + 4 } := by
  rw [checkProgram, runMicro_operandRead, runMicro_ok (dataPath_check _)]
  rfl

/-- Settles O35: the flags of the one transfer that commits. -/
theorem checkResult : Obligations.CheckResult :=
  ⟨byte_append_operand 0xB0#8, fun s d =>
    ⟨_, (exec_eq_runMicro (.check d) s).trans (congrArg _ (runMicro_check s d)), flagsNZ_check (s.mem.read d.toNat) s.sr,
      rfl, rfl, rfl, rfl, rfl, rfl, rfl, ⟨rfl, rfl, rfl, rfl, rfl, rfl, rfl, rfl⟩⟩⟩

end Sys2Proof.Machine
end

section
/-! Proofs of the family 46_privileged, in this order: the instructions that write one bit of SR, and IRET. Every instruction here
runs in every state: none traps for lack of privilege (46_privileged.md R300). -/

namespace Sys2Proof.Machine

/-! ## NOP, HALT, EI and DI (46_privileged.md R301 to R304) -/

theorem oneBit_putBit (sr : Word) {k : Nat} (b : Bool) (hk : k < 32) : OneBit sr (putBit sr k b) k b where
  bit := by rw [getLsbD_putBit sr k k b hk, if_pos rfl]
  others := fun j hj => by rw [getLsbD_putBit sr k j b hk, if_neg hj]

/-- The state after `n` ticks that put `b` in bit `k` of SR, with the word of that bit alone in BR and `d` in DR. -/
def State.bitPut (s : State) (k : Nat) (b : Bool) (d : Word) (n : Nat) : State :=
  { s with sr := putBit s.sr k b, br := 1#32 <<< k, dr := d, ticks := s.ticks + n, microPos := s.microPos + n }

theorem statusEffect_bitPut (s : State) (k : Nat) (b : Bool) (d : Word) (n : Nat) : StatusEffect s (s.bitPut k b d n) n :=
  ⟨rfl, rfl, rfl, rfl, rfl, ⟨rfl, rfl, rfl, rfl, rfl, rfl, rfl, rfl⟩⟩

theorem runMicro_halt (s : State) : runMicro haltProgram s = s.bitPut 15 false s.dr 3 := by
  rw [haltProgram, runMicro_bit15, runMicro_ok (dataPath_uSrClear _)]
  rfl

theorem runMicro_di (s : State) : runMicro diProgram s = s.bitPut 14 false s.dr 4 := by
  rw [diProgram, runMicro_bit14, runMicro_ok (dataPath_uSrClear _)]
  rfl

/-- EI sets the bit by De Morgan, so the complement of the new SR stays behind in DR. -/
theorem runMicro_ei (s : State) : runMicro eiProgram s = s.bitPut 14 true (~~~(putBit s.sr 14 true)) 5 := by
  have hOr : putBit s.sr 14 true = ~~~(~~~s.sr &&& ~~~0x00004000#32) := or_eq_not_nor _ _
  rw [eiProgram, runMicro_bit14, runMicro_ok (dataPath_drNorSr _), runMicro_ok (dataPath_srNotDr _), State.bitPut, hOr,
    BitVec.not_not]
  rfl

theorem exec_halt (s : State) : exec .halt s = .next (s.bitPut 15 false s.dr 3) :=
  (exec_eq_runMicro .halt s).trans (congrArg _ (runMicro_halt s))

/-- Bit 15 of SR is RUN (10_state.md R27). -/
theorem bitPut_flagRUN (s : State) (b : Bool) (d : Word) (n : Nat) : (s.bitPut 15 b d n).flagRUN = b :=
  (oneBit_putBit s.sr b (by decide)).bit

/-- Settles O36: NOP has no microinstruction; each of the other three puts one bit in SR. -/
theorem nopHaltEiDiResult : Obligations.NopHaltEiDiResult := by
  refine ⟨rfl, rfl, rfl, rfl, fun s hrun hdec => ?_, fun s => ⟨exec_eq_runMicro .nop s, ?_, ?_, ?_⟩⟩
  · exact haltsAfter_of_exec hrun hdec (exec_halt _) hrun.fault (bitPut_flagRUN _ _ _ _)
  · exact ⟨_, exec_halt s, oneBit_putBit s.sr false (by decide), statusEffect_bitPut _ _ _ _ _, rfl, rfl⟩
  · exact ⟨_, (exec_eq_runMicro .ei s).trans (congrArg _ (runMicro_ei s)), oneBit_putBit s.sr true (by decide),
      statusEffect_bitPut _ _ _ _ _, rfl, rfl⟩
  · exact ⟨_, (exec_eq_runMicro .di s).trans (congrArg _ (runMicro_di s)), oneBit_putBit s.sr false (by decide),
      statusEffect_bitPut _ _ _ _ _, rfl, rfl⟩

/-! ## IRET (46_privileged.md R305) -/

/-- After the pop of one cell the next cell is the top. -/
theorem popped_tos (s : State) (sr : Word) : State.tos { s.popped with sr := sr } = s.nos :=
  congrArg (fun a : Word => s.mem.read a.toNat) (trunc24_trunc24 (s.sp + 1))

theorem trunc24_add_one_add_one (v : Word) : trunc24 (trunc24 (v + 1) + 1) = trunc24 (v + 2) := by
  rw [trunc24_add_left, BitVec.add_assoc]
  rfl

/-- The POPF sequence, then the rest. -/
theorem runMicro_popf_append (rest : List MicroInstr) (s : State) :
    runMicro (popfProgram ++ rest) s = runMicro rest { s.popped with sr := s.tos } := by
  rw [popfProgram, List.append_assoc, runMicro_readTop, List.cons_append, runMicro_ok (dataPath_srDr _), List.cons_append,
    runMicro_ok (dataPath_uSpInc1 _)]
  rfl

/-- IRET is RET on the state that POPF leaves. -/
theorem exec_iret_eq_exec_ret (s : State) : exec .iret s = exec .ret { s.popped with sr := s.tos } :=
  (exec_eq_runMicro .iret s).trans
    ((congrArg _ (runMicro_popf_append retProgram s)).trans (exec_eq_runMicro .ret _).symm)

theorem exec_iret (s : State) :
    exec .iret s =
      .next { s with pc := trunc24 s.nos, sp := trunc24 (s.sp + 2), sr := s.tos, ar := trunc24 (s.sp + 1), dr := s.nos
                     ticks := s.ticks + 8, microPos := s.microPos + 8 } := by
  rw [exec_iret_eq_exec_ret, exec_ret, popped_tos, State.popped, popped_tos]
  simp only [State.popped, trunc24_trunc24, trunc24_add_one_add_one]

/-- Settles O37: POPF, then RET on the state it leaves; the popped SR has RUN in its bit 15. -/
theorem iretResult : Obligations.IretResult := by
  refine ⟨rfl, fun s => ?_, fun s t u hpopf hret => ?_, fun s hrun hdec hbit => ?_⟩
  · exact ⟨_, exec_iret s, rfl, rfl, rfl, rfl, rfl, rfl, rfl, rfl, ⟨rfl, rfl, rfl, rfl, rfl, rfl, rfl, rfl⟩⟩
  · rw [exec_popf] at hpopf
    cases hpopf
    exact (exec_iret_eq_exec_ret s).trans hret
  · exact haltsAfter_of_exec hrun hdec (exec_iret _) hrun.fault hbit

end Sys2Proof.Machine
end

section
/-! Proofs of the family 60_exceptions, in this order: the two faulting cycles, what a poll may do, what it reads, the order of
the polls, and the reference devices. -/

namespace Sys2Proof.Machine

/-! ## The two faulting cycles (60_exceptions.md R402, R405) -/

/-- Settles O19: FETCH, both operands read, and the DIV transfer that stops with the divisor in BR. -/
theorem divideByZeroCycle : Obligations.DivideByZeroCycle := by
  refine ⟨fun s hrun hdec htos => ?_, fun s t hrun hstep hfault => ?_⟩
  · have hexec : exec .div (fetchedState s) = .next (State.raiseFault
        { (fetchedState s).pairRead with ticks := (fetchedState s).ticks + 6 } .divisionByZero) :=
      (exec_eq_runMicro .div _).trans (congrArg _ (runMicro_div_zero htos))
    rw [step_of_decoded hrun hdec, hexec, afterExecute_faulted (raiseFault_faultStatus _ _), ← htos]
    rfl
  · obtain ⟨h, -⟩ | ⟨-, hdec, -⟩ := step_fault_cases hrun hstep hfault
    · cases h
    · exact hdec

/-- Settles O40: FETCH, and the fault of DECODE. -/
theorem unknownOpcodeCycle : Obligations.UnknownOpcodeCycle := by
  intro s hrun hnone
  cases hdec : decodeWith s.opcodeMap (fetchedWord s) with
  | ok i => exact absurd hdec (hnone i)
  | error r =>
    rw [step_of_undecoded hrun hdec, fetch_eq]
    rfl

/-! ## What a poll may do (60_exceptions.md R422, R425; log 10) -/

theorem blockBuffer_ne_blockStatus (n : Fin 16) : blockBuffer n ≠ blockStatus n := Nat.succ_ne_self _

/-- A transfer size is a byte, so the buffer has at most 64 cells. -/
theorem transferSize_lt (m : Memory) (n : Fin 16) : transferSize m n < 256 := BitVec.isLt _

/-- The buffer cells of a block are distinct: they are too few to come round (R422). -/
theorem bufferCells_nodup (m : Memory) (n : Fin 16) : (bufferCells m n).Nodup := by
  refine List.Nodup.map_on (fun i hi j hj hij => ?_) List.nodup_range
  have hsize := transferSize_lt m n
  rw [List.mem_range] at hi hj
  simp only [cellCount] at hij
  omega

theorem bufferCells_getElem? (m : Memory) (n : Fin 16) (j a : Nat) :
    (bufferCells m n)[j]? = some a ↔ j < (transferSize m n + 3) / 4 ∧ a = (bufferBase m n + j) % cellCount := by
  rw [bufferCells, List.getElem?_map, Option.map_eq_some_iff]
  simp only [List.getElem?_eq_some_iff, List.getElem_range, List.length_range]
  constructor
  · rintro ⟨_, ⟨hj, rfl⟩, rfl⟩
    exact ⟨hj, rfl⟩
  · rintro ⟨hj, rfl⟩
    exact ⟨j, ⟨hj, rfl⟩, rfl⟩

/-- The words written to the buffer: word `j` to the `j`-th cell, as far as there are words and cells. -/
theorem mem_bufferWrites_iff (m : Memory) (n : Fin 16) (ws : List Word) (a : Nat) (w : Word) :
    (a, w) ∈ (bufferCells m n).zip ws ↔
      ∃ j < (transferSize m n + 3) / 4, a = (bufferBase m n + j) % cellCount ∧ ws[j]? = some w := by
  rw [List.mem_iff_getElem?]
  refine exists_congr fun j => ?_
  rw [List.getElem?_zip_eq_some, bufferCells_getElem?, and_assoc]

theorem bufferWrites_nodup (m : Memory) (n : Fin 16) (ws : List Word) : (((bufferCells m n).zip ws).map (·.1)).Nodup := by
  rw [List.zip_eq_zip_take_min, List.map_fst_zip (by simp)]
  exact (bufferCells_nodup m n).sublist (List.take_sublist _ _)

/-- A word written to one cell only, outside the block, is there afterwards. -/
theorem writeBuffer_read_of_mem {n : Fin 16} {ws : List (Nat × Word)} (hnodup : (ws.map (·.1)).Nodup) {a : Nat} {w : Word}
    (hmem : (a, w) ∈ ws) (hstatus : a ≠ blockStatus n) (hbuffer : a ≠ blockBuffer n) (m : Memory) :
    (writeBuffer n ws m).read a = w := by
  induction ws generalizing m with
  | nil => cases hmem
  | cons e rest ih =>
    obtain ⟨hfresh, hrest⟩ := List.nodup_cons.mp hnodup
    obtain rfl | hmem := List.mem_cons.mp hmem
    · rw [writeBuffer, writeBuffer_read n rest _ a (.inl hfresh), if_neg (by simp [hstatus, hbuffer]), Memory.read_write_same]
    · exact ih hrest hmem _

/-- What one cell reads after the writes depends on the memory before them through that cell alone. -/
theorem writeBuffer_read_congr {n : Fin 16} {ws : List (Nat × Word)} {m m' : Memory} {b : Nat} (h : m'.read b = m.read b) :
    (writeBuffer n ws m').read b = (writeBuffer n ws m).read b := by
  induction ws generalizing m m' with
  | nil => exact h
  | cons e rest ih =>
    refine ih ?_
    split
    · exact h
    · rw [Memory.read_write, Memory.read_write, h]

/-- The first word of the block after a poll: the flag, and nothing else; the buffer writes pass it over (log 10). -/
theorem pollEffect_read_status (n : Fin 16) (ready : Bool) (ws : List Word) (m : Memory) :
    (pollEffect n ready ws m).read (blockStatus n) = putBit (m.read (blockStatus n)) 31 ready := by
  rw [pollEffect, writeReady_read, if_pos rfl, writeBuffer_read _ _ _ _ (.inr (.inl rfl))]

/-- Any other cell holds what the buffer writes left there. -/
theorem pollEffect_read_other {n : Fin 16} {a : Nat} (h : a ≠ blockStatus n) (ready : Bool) (ws : List Word) (m : Memory) :
    (pollEffect n ready ws m).read a = (writeBuffer n ((bufferCells m n).zip ws) m).read a := by
  rw [pollEffect, writeReady_read, if_neg h]

@[simp] theorem readyFlag_pollEffect (n : Fin 16) (ready : Bool) (ws : List Word) (m : Memory) :
    readyFlag (pollEffect n ready ws m) n = ready := by
  rw [readyFlag, pollEffect_read_status, getLsbD_putBit _ _ _ _ (by decide), if_pos rfl]

theorem pollLegal_refl (n : Fin 16) (m : Memory) : PollLegal n m m := ⟨fun _ _ _ => rfl, fun _ _ => rfl, rfl, rfl⟩

/-- The effect of a poll is within the contract (R425). -/
theorem pollEffect_legal (n : Fin 16) (ready : Bool) (ws : List Word) (m : Memory) :
    PollLegal n m (pollEffect n ready ws m) where
  others a hstatus hbuffer := by
    rw [pollEffect_read_other hstatus]
    refine writeBuffer_read _ _ _ _ (.inl fun ha => hbuffer ?_)
    obtain ⟨e, he, rfl⟩ := List.mem_map.mp ha
    exact (List.of_mem_zip he).1
  status k hk := by rw [pollEffect_read_status, getLsbD_putBit _ _ _ _ (by decide), if_neg hk]
  buffer := by
    rw [pollEffect_read_other (blockBuffer_ne_blockStatus n)]
    exact writeBuffer_read _ _ _ _ (.inr (.inr rfl))
  init := pollEffect_init n ready ws m

theorem pollDevice_legal (d : Device) (m : Memory) : PollLegal d.number m (pollDevice d m).2 := by
  obtain h | ⟨ready, ws, h⟩ := pollDevice_mem d m
  · rw [h]
    exact pollLegal_refl _ _
  · rw [h]
    exact pollEffect_legal _ _ _ _

/-- A poll that writes the flag and the buffer words of a memory within the contract leaves that memory, cell by cell. -/
theorem PollLegal.read_eq {n : Fin 16} {m m' : Memory} (h : PollLegal n m m') (a : Nat) :
    (pollEffect n (readyFlag m' n) ((bufferCells m n).map m'.read) m).read a = m'.read a := by
  by_cases hstatus : a = blockStatus n
  · subst hstatus
    rw [pollEffect_read_status]
    apply BitVec.eq_of_getLsbD_eq
    intro k _
    rw [getLsbD_putBit _ _ _ _ (by decide)]
    split
    case isTrue hk => rw [hk, readyFlag]
    case isFalse hk => exact (h.status k hk).symm
  rw [pollEffect_read_other hstatus]
  by_cases hbuffer : a = blockBuffer n
  · subst hbuffer
    rw [writeBuffer_read _ _ _ _ (.inr (.inr rfl)), h.buffer]
  by_cases hcell : a ∈ bufferCells m n
  · have hwritten : (a, m'.read a) ∈ (bufferCells m n).zip ((bufferCells m n).map m'.read) := by
      rw [← List.map_prod_left_eq_zip]
      exact List.mem_map_of_mem hcell
    exact writeBuffer_read_of_mem (bufferWrites_nodup m n _) hwritten hstatus hbuffer m
  · rw [← pollEffect_read_other hstatus (readyFlag m' n), (pollEffect_legal n _ _ m).others a hstatus hcell,
      h.others a hstatus hcell]

/-- Settles O52: the flag and the buffer words that the given memory has. -/
theorem everyLegalPoll : Obligations.EveryLegalPoll := fun n m m' hm hm' h =>
  ⟨_, _, canonicalMemory _ m' (pollEffect_wf n _ _ m hm) hm' ((pollEffect_init n _ _ m).trans h.init.symm) h.read_eq⟩

/-! ## What a poll reads (60_exceptions.md R422, R425) -/

/-- Two memories that differ in the handler address of the block of device `n` at most. -/
structure AlikeButHandler (n : Fin 16) (m m' : Memory) : Prop where
  flags : flagsByte m' n = flagsByte m n
  others : ∀ a, a ≠ blockStatus n → m'.read a = m.read a

theorem alikeButHandler_withHandler (n : Fin 16) (m : Memory) (h : Addr) : AlikeButHandler n m (withHandler m n h) where
  flags := by
    rw [flagsByte, withHandler, Memory.read_write_same]
    exact opcodeByte_word _ _
  others _ ha := Memory.read_write_other _ _ ha

namespace AlikeButHandler

variable {n : Fin 16} {m m' : Memory}

/-- The ready flag is the top bit of the flags byte. -/
theorem readyFlag_eq (h : AlikeButHandler n m m') : readyFlag m' n = readyFlag m n := by
  have hbit (m : Memory) : readyFlag m n = (flagsByte m n).getLsbD 7 := by simp [readyFlag, flagsByte]
  rw [hbit, hbit, h.flags]

theorem bufferWord_eq (h : AlikeButHandler n m m') : m'.read (blockBuffer n) = m.read (blockBuffer n) :=
  h.others _ (blockBuffer_ne_blockStatus n)

theorem transferSize_eq (h : AlikeButHandler n m m') : transferSize m' n = transferSize m n := by
  rw [transferSize, transferSize, h.bufferWord_eq]

theorem bufferCells_eq (h : AlikeButHandler n m m') : bufferCells m' n = bufferCells m n := by
  rw [bufferCells, bufferCells, bufferBase, bufferBase, h.transferSize_eq, h.bufferWord_eq]

/-- The words of a buffer that does not cover the handler address. -/
theorem bufferWords_eq (h : AlikeButHandler n m m') (hcover : blockStatus n ∉ bufferCells m n) :
    (bufferCells m' n).map m'.read = (bufferCells m n).map m.read := by
  rw [h.bufferCells_eq]
  exact List.map_congr_left fun a ha => h.others a fun hstatus => hcover (hstatus ▸ ha)

/-- The same poll effect keeps two memories alike. -/
theorem pollEffect_alike (h : AlikeButHandler n m m') (ready : Bool) (ws : List Word) :
    AlikeButHandler n (pollEffect n ready ws m) (pollEffect n ready ws m') where
  flags := by
    apply BitVec.eq_of_getLsbD_eq
    intro k hk
    have hflag := congrArg (BitVec.getLsbD · k) h.flags
    simp only [flagsByte, BitVec.getLsbD_extractLsb', hk, decide_true, Bool.true_and] at hflag
    simp only [flagsByte, pollEffect_read_status, BitVec.getLsbD_extractLsb', getLsbD_putBit _ 31 _ _ (by decide), hflag]
  others a ha := by
    rw [pollEffect_read_other ha, pollEffect_read_other ha, h.bufferCells_eq]
    exact writeBuffer_read_congr (h.others a ha)

end AlikeButHandler

/-- The output device's bytes come from the words of its buffer alone. -/
theorem bufferBytes_eq (m : Memory) (n : Fin 16) :
    bufferBytes m n = (((bufferCells m n).map m.read).flatMap unpackWord).take (transferSize m n) := by
  rw [bufferBytes, List.flatMap_map]

/-- No device reads the handler address in its block: on two memories that differ there at most it goes to the same state and
does the same (R422). -/
theorem pollDevice_alike {m m' : Memory} (d : Device) (h : AlikeButHandler d.number m m')
    (hcover : blockStatus d.number ∉ bufferCells m d.number) :
    (pollDevice d m').1 = (pollDevice d m).1 ∧ AlikeButHandler d.number (pollDevice d m).2 (pollDevice d m').2 := by
  obtain ⟨n, kind⟩ := d
  cases kind with
  | input pending =>
    simp only [pollDevice, pollInput, h.readyFlag_eq, h.transferSize_eq]
    split
    · exact ⟨rfl, h.pollEffect_alike _ _⟩
    · exact ⟨rfl, h⟩
  | output sink =>
    simp only [pollDevice, pollOutput, h.readyFlag_eq, bufferBytes_eq, h.bufferWords_eq hcover, h.transferSize_eq]
    split
    · exact ⟨rfl, h.pollEffect_alike _ _⟩
    · exact ⟨rfl, h⟩
  | host st =>
    simp only [pollDevice, pollHost, h.flags, h.bufferWord_eq, h.bufferWords_eq hcover]
    exact ⟨trivial, h.pollEffect_alike _ _⟩

/-! ## The order of the polls (60_exceptions.md R423) -/

/-- What the poll of slot `n` leaves there, on the memory that the slots below it left. -/
def polledSlot (ds : DeviceSet) (m : Memory) (n : Fin 16) : Option DeviceKind :=
  ds[n.val].map fun k => (pollDevice ⟨n, k⟩ (polledBelow ds m n.val)).1.kind

/-- The memory after slot `k`: that before it, or what the poll of its device leaves. -/
theorem polledBelow_succ (ds : DeviceSet) (m : Memory) {k : Nat} (hk : k < 16) :
    polledBelow ds m (k + 1) =
      ds[k].elim (polledBelow ds m k) fun kind => (pollDevice ⟨⟨k, hk⟩, kind⟩ (polledBelow ds m k)).2 := by
  rw [polledBelow, dif_pos hk]
  cases ds[k] <;> rfl

/-- The polls from slot `k` up, after those below it. -/
theorem pollFrom_drop (ds : DeviceSet) (m : Memory) (r : Nat) {k : Nat} (hk : k + r = 16) :
    pollFrom (Fin.ofNat 16 k) (ds.toList.drop k) (polledBelow ds m k) =
      (((List.finRange 16).drop k).map (polledSlot ds m), polledBelow ds m 16) := by
  induction r generalizing k with
  | zero =>
    obtain rfl : k = 16 := hk
    rw [List.drop_of_length_le (by simp), List.drop_of_length_le (by simp)]
    rfl
  | succ r ih =>
    have hlt : k < 16 := by omega
    have hnext : Fin.ofNat 16 k + 1 = Fin.ofNat 16 (k + 1) := by
      apply Fin.ext
      simp [Fin.val_add]
    have hslot : Fin.ofNat 16 k = ⟨k, hlt⟩ := Fin.ext (Nat.mod_eq_of_lt hlt)
    have hrest := ih (k := k + 1) (by omega)
    rw [polledBelow_succ ds m hlt, ← hnext, hslot] at hrest
    have hhead : (List.finRange 16)[k]'(by simpa using hlt) = ⟨k, hlt⟩ := by simp
    rw [hslot, List.drop_eq_getElem_cons (by simpa using hlt),
      List.drop_eq_getElem_cons (l := List.finRange 16) (by simpa using hlt), List.map_cons, hhead, polledSlot, Vector.getElem_toList]
    cases hkind : ds[k] with
    | none =>
      rw [hkind, Option.elim_none] at hrest
      simp only [Option.map_none, pollFrom, hrest]
    | some kind =>
      rw [hkind, Option.elim_some] at hrest
      simp only [Option.map_some, pollFrom, hrest]

theorem pollAll_eq (ds : DeviceSet) (m : Memory) :
    (pollAll ds m).1.toList = (List.finRange 16).map (polledSlot ds m) ∧ (pollAll ds m).2 = polledBelow ds m 16 := by
  have h := pollFrom_drop ds m 16 (k := 0) rfl
  exact ⟨(pollAll_toList ds m).trans (congrArg Prod.fst h), congrArg Prod.snd h⟩

theorem pollAll_slot (ds : DeviceSet) (m : Memory) (n : Fin 16) : (pollAll ds m).1[n.val] = polledSlot ds m n := by
  have h := congrArg (fun slots => slots[n.val]?) (pollAll_eq ds m).1
  simpa [-pollAll_toList] using h

/-- Settles O51: the effect of a poll, what a poll reads, and the slots in turn. -/
theorem pollWithinContract : Obligations.PollWithinContract := by
  refine ⟨fun d m => ⟨pollDevice_legal d m, pollDevice_number d m⟩, fun d m h hcover => ?_,
    fun ds m => ⟨(pollAll_eq ds m).2, pollAll_slot ds m⟩⟩
  obtain ⟨hdevice, hmem⟩ := pollDevice_alike d (alikeButHandler_withHandler d.number m h) hcover
  exact ⟨hdevice, hmem.readyFlag_eq, hmem.others⟩

/-! ## The reference devices (60_exceptions.md R426; log 11) -/

/-- Settles O53: the words of the delivered bytes, each in its own buffer cell, and the flag. -/
theorem inputDevicePoll : Obligations.InputDevicePoll := by
  refine fun n pending m => ⟨fun hidle => ?_, fun hflag hpending k hk => ?_⟩
  · have hnot : ¬(readyFlag m n = false ∧ pending ≠ []) := by
      rintro ⟨hflag, hpending⟩
      simp [hflag, hpending] at hidle
    simp only [pollDevice, pollInput, if_neg hnot]
  · have hlength : (packBytes (pending.take k)).length = (k + 3) / 4 := by
      rw [packBytes_length, List.length_take, Nat.min_eq_left (by omega)]
    refine ⟨pollEffect n true (packBytes (pending.take k)) m, ?_, readyFlag_pollEffect _ _ _ _,
      fun j w hw a ha hstatus hbuffer => ?_, fun a hstatus hother => ?_⟩
    · simp only [pollDevice, pollInput, if_pos (And.intro hflag hpending), hk]
    · have hj : j < (packBytes (pending.take k)).length := (List.getElem?_eq_some_iff.mp hw).1
      have hwritten : (a, w) ∈ (bufferCells m n).zip (packBytes (pending.take k)) :=
        (mem_bufferWrites_iff m n _ a w).mpr ⟨j, by omega, ha, hw⟩
      rw [pollEffect_read_other hstatus]
      exact writeBuffer_read_of_mem (bufferWrites_nodup m n _) hwritten hstatus hbuffer m
    · rw [pollEffect_read_other hstatus]
      refine writeBuffer_read _ _ _ _ (.inl fun hmem => ?_)
      obtain ⟨⟨_, w⟩, hwritten, rfl⟩ := List.mem_map.mp hmem
      obtain ⟨j, -, ha, hw⟩ := (mem_bufferWrites_iff m n _ _ w).mp hwritten
      have hj : j < (packBytes (pending.take k)).length := (List.getElem?_eq_some_iff.mp hw).1
      exact hother j (hlength ▸ hj) ha

/-- The bytes of words in a row: byte `j` is in word `j / 4`, at its big-endian place (20_memory.md R53). -/
theorem flatMap_unpackWord_getElem? (ws : List Word) (j : Nat) :
    (ws.flatMap unpackWord)[j]? = ws[j / 4]?.map fun w => w.extractLsb' (24 - 8 * (j % 4)) 8 := by
  induction ws generalizing j with
  | nil => simp
  | cons w rest ih =>
    match j with
    | 0 | 1 | 2 | 3 => rfl
    | j + 4 =>
      have hdiv : (j + 4) / 4 = j / 4 + 1 := by omega
      rw [hdiv, Nat.add_mod_right, List.getElem?_cons_succ, ← ih]
      rfl

theorem bufferBytes_getElem? {m : Memory} {n : Fin 16} {j : Nat} (h : j < transferSize m n) :
    (bufferBytes m n)[j]? =
      some ((m.read ((bufferBase m n + j / 4) % cellCount)).extractLsb' (24 - 8 * (j % 4)) 8) := by
  have hcell : (bufferCells m n)[j / 4]? = some ((bufferBase m n + j / 4) % cellCount) :=
    (bufferCells_getElem? m n _ _).mpr ⟨by omega, rfl⟩
  rw [bufferBytes_eq, List.getElem?_take_of_lt h, flatMap_unpackWord_getElem?, List.getElem?_map, hcell]
  rfl

/-- The buffer's cells hold as many bytes as the transfer size, or up to three more. -/
theorem bufferBytes_length (m : Memory) (n : Fin 16) : (bufferBytes m n).length = transferSize m n := by
  have hcells : (bufferCells m n).length = (transferSize m n + 3) / 4 := by simp [bufferCells]
  have hbytes : (((bufferCells m n).map m.read).flatMap unpackWord).length = (bufferCells m n).length * 4 := by
    rw [List.length_flatMap, List.map_map]
    simp [unpackWord, Function.comp_def]
  rw [bufferBytes_eq, List.length_take, hbytes, hcells]
  omega

/-- Settles O54: the bytes of the buffer, and a poll effect without words. -/
theorem outputDevicePoll : Obligations.OutputDevicePoll := by
  refine fun n sink m => ⟨fun hflag => ?_, fun hflag => ⟨bufferBytes m n, pollEffect n false [] m, ?_, bufferBytes_length m n,
    readyFlag_pollEffect _ _ _ _, fun j hj => bufferBytes_getElem? hj, fun a ha => ?_⟩⟩
  · simp [pollDevice, pollOutput, hflag]
  · simp [pollDevice, pollOutput, hflag]
  · rw [pollEffect_read_other ha, List.zip_nil_right, writeBuffer]

end Sys2Proof.Machine
end

section
/-! Proofs of the family 70_reset_and_hazards, in this order: the tick table, what the loader accepts, the start state, and a
written listing read back. -/

namespace Sys2Proof.Machine

/-! ## The tick table (70_reset_and_hazards.md R473) -/

/-- A microprogram that took no fault ran to its end: one tick for each microinstruction (40_datapath.md R181). -/
theorem runMicro_ticks {ms : List MicroInstr} {s : State} (h : (runMicro ms s).faultStatus = none) :
    (runMicro ms s).ticks = s.ticks + ms.length := by
  induction ms generalizing s with
  | nil => rfl
  | cons m rest ih =>
    cases hm : dataPath m s with
    | error k =>
      rw [runMicro_error hm] at h
      cases h
    | ok t =>
      rw [runMicro_ok hm] at h ⊢
      have hticks : t.ticks = s.ticks := (dataPath_controlKept hm).ticks
      rw [ih h, List.length_cons]
      simp only [hticks]
      omega

/-- FETCH changes nothing that chooses a microprogram. -/
theorem microprogram_fetchedState (i : Instr) (s : State) : microprogram i (fetchedState s) = microprogram i s := by
  cases i <;> rfl

/-- The one transfer of a jump, if it is taken, after the four ticks of FETCH. -/
theorem jumpTicks_eq (taken : Bool) : jumpTicks taken = 4 + (jumpProgram taken).length := by
  cases taken <;> rfl

/-- The table counts FETCH and the rows of 40_datapath.md R190, but for the `div` that faults. -/
theorem tickCost_eq {i : Instr} {s : State} (h : ¬(i = .div ∧ s.tos = 0)) :
    tickCost i s = 4 + (microprogram i s).length := by
  cases i with
  | div => exact if_neg fun htos => h ⟨rfl, htos⟩
  | shl | shr | rol | ror =>
    simp only [tickCost, microprogram]
    cases s.shiftFlags <;> rfl
  | jz | je | jnz | jg | jge | jl | jle => exact jumpTicks_eq _
  | _ => rfl

/-- The cycle of every instruction that takes no fault. -/
theorem step_ticks {s : State} {i : Instr} (hrun : Running s) (hdec : decodeWith s.opcodeMap (fetchedWord s) = .ok i)
    (h : ¬(i = .div ∧ s.tos = 0)) : ∃ t, step s = .next t ∧ t.ticks = s.ticks + tickCost i s := by
  obtain ⟨u, hexec, hfault⟩ := exec_faultStatus i (fetchedState s)
  have hnone : u.faultStatus = none := by
    rw [hfault]
    exact (if_neg h).trans hrun.fault
  refine ⟨u.complete, by rw [step_of_decoded hrun hdec, hexec, afterExecute_ok hnone], ?_⟩
  have hstart : ((fetchedState s).withOperandOf i).ticks = s.ticks + 4 := (withOperandOf_controlKept _ i).ticks
  rw [exec_eq_runMicro] at hexec
  cases hexec
  rw [complete_ticks, runMicro_ticks hnone, hstart, microprogram_fetchedState, tickCost_eq h, Nat.add_assoc]

/-- Settles O43: the length of the microprogram, or the cycle of a fault. -/
theorem tickTable : Obligations.TickTable := by
  refine ⟨fun s i hrun hdec => ?_, fun s hrun hnone => ⟨_, unknownOpcodeCycle s hrun hnone, rfl⟩⟩
  by_cases h : i = .div ∧ s.tos = 0
  · obtain ⟨rfl, htos⟩ := h
    have hcost : tickCost .div s = 10 := if_pos htos
    obtain ⟨hcycle, -⟩ := divideByZeroCycle
    exact ⟨_, hcycle s hrun hdec htos, by rw [hcost]⟩
  · exact step_ticks hrun hdec h

/-! ## What the loader accepts (70_reset_and_hazards.md R455, R458) -/

theorem hexDigit_lt {c : Char} {d : Nat} (h : hexDigit c = some d) : d < 16 := by
  unfold hexDigit at h
  split_ifs at h <;> cases h <;> omega

/-- The number read from `n` hex digits after `v`. -/
theorem takeHex_lt {n v x : Nat} {cs rest : List Char} (h : takeHex n v cs = some (x, rest)) : x < (v + 1) * 16 ^ n := by
  induction n generalizing v cs with
  | zero =>
    cases h
    omega
  | succ n ih =>
    cases cs with
    | nil => cases h
    | cons c cs =>
      rw [takeHex] at h
      split at h
      · rename_i d hd
        have hdigit := hexDigit_lt hd
        calc x < (v * 16 + d + 1) * 16 ^ n := ih h
          _ ≤ ((v + 1) * 16) * 16 ^ n := Nat.mul_le_mul_right _ (by omega)
          _ = (v + 1) * 16 ^ (n + 1) := by rw [Nat.pow_succ', Nat.mul_assoc]
      · cases h

/-- A line of the grammar begins with the six digits of its address. -/
theorem parseLine_addr {l : List Char} {c : Nat × Bool × Word} (h : parseLine l = some c) :
    ∃ rest, takeHex 6 0 (l.dropWhile isBlank) = some (c.1, rest) := by
  unfold parseLine at h
  split at h
  · cases h
  rename_i a r htake
  split at h
  case h_2 => cases h
  split at h
  case isFalse => cases h
  split at h
  · cases h
  split at h
  · cases h
  split at h
  case isFalse => cases h
  cases h
  exact ⟨r, htake⟩

theorem parseLine_addr_lt {l : List Char} {c : Nat × Bool × Word} (h : parseLine l = some c) : c.1 < cellCount := by
  obtain ⟨rest, htake⟩ := parseLine_addr h
  exact takeHex_lt htake

/-- A line of the grammar is not blank: it has digits. -/
theorem blankLine_of_parseLine {l : List Char} {c : Nat × Bool × Word} (h : parseLine l = some c) : blankLine l = false := by
  by_contra hblank
  obtain ⟨rest, htake⟩ := parseLine_addr h
  have hall : ∀ x ∈ l, isBlank x = true := by simpa [blankLine] using hblank
  rw [List.dropWhile_eq_nil_iff.mpr hall] at htake
  cases htake

/-- Every loaded line names a cell. -/
theorem parseLines_addr_lt {n : Nat} {text : List (List Char)} {lines : List LoadedLine}
    (h : parseLines n text = .ok lines) : ∀ l ∈ lines, l.2.1 < cellCount := by
  induction text generalizing n lines with
  | nil =>
    cases h
    simp
  | cons l rest ih =>
    rw [parseLines] at h
    split at h
    · exact ih h
    split at h
    · cases h
    rename_i c hc
    split at h
    · cases h
    rename_i cs hcs
    cases h
    intro e he
    obtain rfl | he := List.mem_cons.mp he
    · exact parseLine_addr_lt hc
    · exact ih hcs e he

/-- All that a load can answer with: the launch at the entry of the parsed lines, none of which is repeated (R455). -/
theorem load_ok_iff (p : Params) (listing : List Char) (s : State) :
    load p listing = .ok s ↔ ∃ lines entry, parseLines 1 (splitLines listing [] false) = .ok lines ∧
      repeatedAddress [] lines = none ∧ entryOf lines = .ok entry ∧
      s = State.launch p (BitVec.ofNat 24 entry) (loadCells (Memory.blank p.memInit) lines) := by
  unfold load
  constructor
  · intro h
    split at h
    · cases h
    rename_i lines hlines
    split at h
    · cases h
    rename_i hrepeated
    split at h
    · cases h
    rename_i entry hentry
    cases h
    exact ⟨lines, entry, hlines, hrepeated, hentry, rfl⟩
  · rintro ⟨lines, entry, hlines, hrepeated, hentry, rfl⟩
    simp only [hlines, hrepeated, hentry]

/-! ## The start state (70_reset_and_hazards.md R455; 10_state.md R36) -/

theorem launch_running (p : Params) (entry : Addr) (m : Memory) : Running (State.launch p entry m) :=
  ⟨rfl, (by decide : (0x00008000#32).getLsbD 15 = true)⟩

/-- Settles O60: a load is a launch on a memory in canonical form. -/
theorem loadStartState : Obligations.LoadStartState := by
  intro p listing s h
  obtain ⟨lines, entry, hlines, -, -, rfl⟩ := (load_ok_iff p listing s).mp h
  have hwf := loadCells_wf _ lines (Memory.wf_blank p.memInit) (parseLines_addr_lt hlines)
  have hinv := launch_inv p (BitVec.ofNat 24 entry) hwf
  exact ⟨hinv.pc, rfl, rfl, rfl, rfl, rfl, rfl, rfl, rfl, rfl, rfl, rfl, hwf, loadCells_init _ _, rfl,
    launch_running _ _ _, hinv⟩

/-! ## The lines of a written listing (30_encoding.md R131; 70_reset_and_hazards.md R458) -/

/-- A text that stays on one line. -/
def NoBreak (text : List Char) : Prop := ∀ c ∈ text, isBreak c = false

theorem NoBreak.append {x y : List Char} (hx : NoBreak x) (hy : NoBreak y) : NoBreak (x ++ y) :=
  List.forall_mem_append.mpr ⟨hx, hy⟩

theorem isBreak_hexChar : ∀ v < 16, isBreak (hexChar v) = false := by decide

theorem noBreak_hexText (n x : Nat) : NoBreak (hexText n x) := by
  induction n generalizing x with
  | zero => exact fun _ h => nomatch h
  | succ n ih => exact (ih _).append (List.forall_mem_singleton.mpr (isBreak_hexChar _ (Nat.mod_lt x (by decide))))

theorem noBreak_joinLabels {ns : List (List Char)} (h : ∀ n ∈ ns, NoBreak n) : NoBreak (joinLabels ns) := by
  induction ns using joinLabels.induct with
  | case1 => exact fun _ h => nomatch h
  | case2 n => exact h n List.mem_cons_self
  | case3 n rest hne ih =>
    rw [joinLabels]
    · have hsep : NoBreak ", ".toList := by simp [NoBreak, isBreak]
      exact ((h n List.mem_cons_self).append hsep).append (ih fun n hn => h n (List.mem_cons_of_mem _ hn))
    · exact hne

/-- A line is one line if its labels have no line break. -/
theorem noBreak_renderLine {l : ListingLine} (h : ∀ n ∈ l.labels, NoBreak n) : NoBreak (renderLine l) := by
  have hmark : NoBreak [' ', if l.entry then '>' else ':', ' '] := by
    cases l.entry <;> simp [NoBreak, isBreak]
  have hcomment : NoBreak (if l.labels.isEmpty then [] else "  <- ".toList ++ joinLabels l.labels) := by
    split
    · exact fun _ h => nomatch h
    · have harrow : NoBreak "  <- ".toList := by simp [NoBreak, isBreak]
      exact harrow.append (noBreak_joinLabels h)
  exact (((noBreak_hexText 6 _).append hmark).append (noBreak_hexText 8 _)).append hcomment

/-- A line without line breaks ends at the LF after it. -/
theorem splitLines_append {l : List Char} (hl : NoBreak l) (cur text : List Char) :
    splitLines (l ++ '\n' :: text) cur false = (cur.reverse ++ l) :: splitLines text [] false := by
  induction l generalizing cur with
  | nil => simp [splitLines]
  | cons c rest ih =>
    have hc := hl c List.mem_cons_self
    simp only [isBreak, Bool.or_eq_false_iff, beq_eq_false_iff_ne] at hc
    obtain ⟨hlf, hcr⟩ := hc
    rw [List.cons_append, splitLines, if_neg hlf, if_neg hcr, ih (fun c hc => hl c (List.mem_cons_of_mem _ hc))]
    simp

/-- A written listing splits into its lines; the LF of the last one leaves an empty line. -/
theorem splitLines_renderListing {ls : List ListingLine}
    (hls : ∀ l ∈ ls, ∀ n ∈ l.labels, NoBreak n) :
    splitLines (renderListing ls) [] false = ls.map renderLine ++ [[]] := by
  induction ls with
  | nil => rfl
  | cons l rest ih =>
    have hline : NoBreak (renderLine l) := noBreak_renderLine (hls l List.mem_cons_self)
    rw [renderListing, List.flatMap_cons, List.append_assoc, List.singleton_append, splitLines_append hline, ← renderListing,
      ih fun l hl => hls l (List.mem_cons_of_mem _ hl)]
    rfl

/-- What the loader keeps of a line of the listing. -/
def loadedCell (l : ListingLine) : Nat × Bool × Word := (l.addr, l.entry, l.value)

/-- The written lines are parsed to their cells, under line numbers. -/
theorem parseLines_renderLine {ls : List ListingLine} (hls : ∀ l ∈ ls, l.addr < cellCount) (n : Nat) :
    ∃ lines, parseLines n (ls.map renderLine ++ [[]]) = .ok lines ∧ lines.map (·.2) = ls.map loadedCell := by
  induction ls generalizing n with
  | nil => exact ⟨[], rfl, rfl⟩
  | cons l rest ih =>
    obtain ⟨lines, hlines, hcells⟩ := ih (fun l hl => hls l (List.mem_cons_of_mem _ hl)) (n + 1)
    have hparse : parseLine (renderLine l) = some (loadedCell l) := listingLineReadsBack l (hls l List.mem_cons_self)
    refine ⟨(n, loadedCell l) :: lines, ?_, by rw [List.map_cons, List.map_cons, hcells]⟩
    rw [List.map_cons, List.cons_append, parseLines, if_neg (by simp [blankLine_of_parseLine hparse])]
    simp only [hparse, hlines]

/-! ## The checks and the cells of a load (70_reset_and_hazards.md R456, R457, R459) -/

/-- No address twice: the check passes. -/
theorem repeatedAddress_of_nodup {seen : List Nat} {lines : List LoadedLine} (hnodup : (lines.map (·.2.1)).Nodup)
    (hseen : ∀ l ∈ lines, l.2.1 ∉ seen) : repeatedAddress seen lines = none := by
  induction lines generalizing seen with
  | nil => rfl
  | cons l rest ih =>
    obtain ⟨hfresh, hrest⟩ := List.nodup_cons.mp hnodup
    have hnew : ¬ seen.contains l.2.1 = true := by simpa using hseen l List.mem_cons_self
    rw [repeatedAddress, if_neg hnew]
    refine ih hrest fun e he hmem => ?_
    obtain heq | hmem := List.mem_cons.mp hmem
    · exact hfresh (List.mem_map.mpr ⟨e, he, heq⟩)
    · exact hseen e (List.mem_cons_of_mem _ he) hmem

/-- One entry line: its address is the entry. -/
theorem entryOf_of_single {lines : List LoadedLine} {entry : Nat}
    (h : (lines.filter (·.2.2.1)).map (·.2.1) = [entry]) : entryOf lines = .ok entry := by
  obtain ⟨l, hl, rfl⟩ := List.map_eq_singleton_iff.mp h
  rw [entryOf, hl]

/-- A cell that no line names keeps its value. -/
theorem loadCells_read_other {lines : List LoadedLine} {a : Nat} (h : a ∉ lines.map (·.2.1)) (m : Memory) :
    (loadCells m lines).read a = m.read a := by
  induction lines generalizing m with
  | nil => rfl
  | cons l rest ih =>
    rw [List.map_cons, List.mem_cons, not_or] at h
    obtain ⟨hne, hrest⟩ := h
    rw [loadCells, ih hrest, Memory.read_write_other _ _ hne]

/-- A cell that one line names holds that line's value. -/
theorem loadCells_read_of_mem {lines : List LoadedLine} (hnodup : (lines.map (·.2.1)).Nodup) {l : LoadedLine}
    (hl : l ∈ lines) (m : Memory) : (loadCells m lines).read l.2.1 = l.2.2.2 := by
  induction lines generalizing m with
  | nil => cases hl
  | cons e rest ih =>
    obtain ⟨hfresh, hrest⟩ := List.nodup_cons.mp hnodup
    obtain rfl | hl := List.mem_cons.mp hl
    · rw [loadCells, loadCells_read_other hfresh, Memory.read_write_same]
    · exact ih hrest hl _

/-- Settles O59: the lines read back, the checks pass, and each line names its own cell. -/
theorem listingLoads : Obligations.ListingLoads := by
  intro p ls entry h
  obtain ⟨lines, hlines, hcells⟩ := parseLines_renderLine h.range 1
  have haddrs : lines.map (·.2.1) = ls.map (·.addr) := by
    simpa [loadedCell, Function.comp_def] using congrArg (List.map (·.1)) hcells
  have hnodup : (lines.map (·.2.1)).Nodup := haddrs ▸ h.distinct
  have hentries : (lines.filter (·.2.2.1)).map (·.2.1) = [entry] := by
    have hfilter := congrArg (fun cs => (cs.filter (·.2.1)).map (·.1)) hcells
    simp only [List.filter_map, List.map_map] at hfilter
    exact hfilter.trans h.entries
  refine ⟨loadCells (Memory.blank p.memInit) lines, (load_ok_iff _ _ _).mpr ⟨lines, entry, ?_,
      repeatedAddress_of_nodup hnodup (by simp), entryOf_of_single hentries, rfl⟩, loadCells_init _ _,
    loadCells_wf _ _ (Memory.wf_blank _) (parseLines_addr_lt hlines), fun a => ?_⟩
  · rw [splitLines_renderListing h.labels, hlines]
  · split
    · rename_i l hfind
      have haddr : l.addr = a := by simpa using List.find?_some hfind
      have hmem : loadedCell l ∈ lines.map (·.2) := hcells ▸ List.mem_map_of_mem (List.mem_of_find?_eq_some hfind)
      obtain ⟨⟨n, c⟩, hline, hc⟩ := List.mem_map.mp hmem
      cases hc
      rw [← haddr]
      exact loadCells_read_of_mem hnodup hline _
    · rename_i hfind
      refine loadCells_read_other (fun hmem => ?_) _
      rw [haddrs] at hmem
      obtain ⟨l, hl, haddr⟩ := List.mem_map.mp hmem
      simpa [haddr] using List.find?_eq_none.mp hfind l hl

end Sys2Proof.Machine
end
